-- ==== Sys2Proof/Word.lean ====
section
/-! DEFINITION. Register widths of CORE as types (spec/00_scope.md R8, R10: a register of width N holds a natural below 2^N). -/

namespace Sys2Proof

/-- A byte of `DBUF` (R27). -/
abbrev Byte := BitVec 8

/-- A subkey or a cipher word (R26, R120). -/
abbrev Word16 := BitVec 16

/-- A command word (R80), and the width of `ID`, `CMD`, `STATUS`, `CTRL`. -/
abbrev CmdWord := BitVec 32

/-- `KWID` = 136 bits: knapsack elements, modulus, multiplier, inverse (R8, R148). -/
abbrev KnapWord := BitVec 136

/-- `KCW` = 144 bits: the knapsack total (R8, R148). -/
abbrev KnapTotal := BitVec 144

/-- `ECW` = 192 bits: scalars and coordinates (R8). -/
abbrev Scalar := BitVec 192

/-- `HLEN` = 256 bits: the digest; also the widest value the host port carries (R8, R74). -/
abbrev Digest := BitVec 256

end Sys2Proof
end

