-- ==== Sys2Proof/Config.lean ====
section
/-! DEFINITION. The parameters of spec/00_scope.md R8, the default curve of spec/43_ec.md R160, and the free values. -/

namespace Sys2Proof

/-- The curve parameters `(p, a, b, Gx, Gy, n)` of R160; hardwired, with no register. -/
structure Curve where
  p : Nat
  a : Nat
  b : Nat
  gx : Nat
  gy : Nat
  n : Nat
deriving DecidableEq, Repr

/-- The OPEN parameters of R8 that a command depends on. Log entry 1. -/
structure Config where
  dbufBytes : Nat
  curve : Curve
deriving DecidableEq, Repr

/-- The default curve of R160 (NIST P-192). -/
def Curve.p192 : Curve where
  p := 0xFFFFFFFFFFFFFFFFFFFFFFFFFFFFFFFEFFFFFFFFFFFFFFFF
  a := 0xFFFFFFFFFFFFFFFFFFFFFFFFFFFFFFFEFFFFFFFFFFFFFFFC
  b := 0x64210519E59C80E70FA7E9AB72243049FEB8DEECC146B9B1
  gx := 0x188DA80EB03090F67CBF20EB43A18800F4FF0AFD82FF1012
  gy := 0x07192B95FFC8DA78631011ED6B24CDD573F977A11E794811
  n := 0xFFFFFFFFFFFFFFFFFFFFFFFF99DEF836146BC9B1B4D22831

/-- R8: the value of `DBUF_BYTES` the spec's examples use, and the default curve. DESIGN CHOICE (log entry 1): these are
the values of `State.reset`; every statement over all states holds for every configuration. -/
def Config.default : Config where
  dbufBytes := 64
  curve := Curve.p192

/-- R21: what `ID` reads. -/
def Config.idVal : CmdWord := 0x43503037

/-- `KN_MAX` of R8. -/
def Config.knMax : Nat := 128

/-- `HLEN` of R8: the widest digest, in bits. -/
def Config.hlen : Nat := 256

/-- `ECW` of R8 as a number: the iterations of R164. -/
def Config.ecw : Nat := 192

/-- FREE VALUE (log entry 3): what the random-source port delivers at its k-th call when the tape of `Source.rand` is
empty. No body: R15 says no state of the CORE determines a draw. -/
opaque Config.freeDraw : Nat → Nat

/-- FREE VALUE (log entry 5): what a read of a data register answers while `BUSY = 1` (R65), at its k-th occurrence. -/
opaque Config.freeRead : Nat → BitVec 256

/-- Host parameter `EmptyProgress` of R8 and R210. -/
inductive EmptyProgress where
  | oneCallback
  | noCallback
deriving DecidableEq, Repr

/-- The host's own OPEN parameters (R8): `WINDOW_BYTES` and `EmptyProgress`. -/
structure HostParams where
  windowBytes : Nat
  emptyProgress : EmptyProgress
deriving DecidableEq, Repr

/-- R8: the reference window of 2 MiB. `EmptyProgress` has no reference value (D51) and stays an argument. -/
def HostParams.reference (e : EmptyProgress) : HostParams where
  windowBytes := 2097152
  emptyProgress := e

end Sys2Proof
end

