-- ==== Sys2Proof/Syntax.lean ====
section
/-! DEFINITION. The seventeen commands of spec/30_encoding.md R82, one constructor per row of spec/opcode_table.json. -/

namespace Sys2Proof

/-- A command with its operand fields (R80, R81). `imm` is `IMM`, an unsigned 16-bit field used as it stands; that it is
below 2^16 is the check of `Instr.wellFormed` (log entry 16). -/
inductive Instr where
  /-- R190 -/
  | nop
  /-- R191 -/
  | zeroize
  /-- R109: `e` is `E` (1 = for encryption), `imm` the key length in bytes. -/
  | csched (e : Bool) (imm : Nat)
  /-- R110 -/
  | csinv
  /-- R123: `imm` is the byte offset of the block in `DBUF`. -/
  | cblock (imm : Nat)
  /-- R142: `imm` is the sequence length n. -/
  | kgen (imm : Nat)
  /-- R143 -/
  | kpub
  /-- R144 -/
  | kminv
  /-- R145: `imm` is the key length in bytes. -/
  | kenc (imm : Nat)
  /-- R146: `imm` is the expected key length in bytes. -/
  | kdec (imm : Nat)
  /-- R166 -/
  | eldg
  /-- R167 -/
  | epadd
  /-- R168 -/
  | epmul
  /-- R169 -/
  | esinv
  /-- R170 -/
  | ekeygen
  /-- R172 -/
  | esign
  /-- R173 -/
  | everify
deriving DecidableEq, Repr

end Sys2Proof
end

