-- ==== Sys2Proof/WellFormed.lean ====
section
/-! DEFINITION. What a well-formed command is (spec/30_encoding.md R81: `IMM` is 16 bits), and which configurations and host
parameters the spec allows (spec/00_scope.md R8, and the premises of spec/43_ec.md R160 that a computation settles). -/

namespace Sys2Proof

/-- R81: the immediate fits its 16 bits. The formats N have no operand and nothing to check. -/
def Instr.wellFormed : Instr → Bool
  | .nop => true
  | .zeroize => true
  | .csched _ imm => decide (imm < 65536)
  | .csinv => true
  | .cblock imm => decide (imm < 65536)
  | .kgen imm => decide (imm < 65536)
  | .kpub => true
  | .kminv => true
  | .kenc imm => decide (imm < 65536)
  | .kdec imm => decide (imm < 65536)
  | .eldg => true
  | .epadd => true
  | .epmul => true
  | .esinv => true
  | .ekeygen => true
  | .esign => true
  | .everify => true

/-- R160, the bounds and the curve equations: `3 < p < 2^ECW`, coefficients and base point below `p`, non-zero
discriminant, base point on the curve, `1 < n < 2^ECW`. Primality and the order of G are in `Curve.Legal`. -/
def Curve.wf (c : Curve) : Bool :=
  decide (3 < c.p) && decide (c.p < 2 ^ 192) && decide (c.a < c.p) && decide (c.b < c.p) &&
  decide (c.gx < c.p) && decide (c.gy < c.p) && decide (1 < c.n) && decide (c.n < 2 ^ 192) &&
  decide ((4 * c.a ^ 3 + 27 * c.b ^ 2) % c.p ≠ 0) &&
  decide (c.gy * c.gy % c.p = (c.gx ^ 3 + c.a * c.gx + c.b) % c.p)

/-- R8: `DBUF_BYTES` is a multiple of 8 from 8 to 65536, and the curve is well formed. -/
def Config.wf (c : Config) : Bool :=
  decide (c.dbufBytes % 8 = 0) && decide (8 ≤ c.dbufBytes) && decide (c.dbufBytes ≤ 65536) && c.curve.wf

/-- R8: `WINDOW_BYTES` is a positive multiple of 8. -/
def HostParams.wf (hp : HostParams) : Bool := decide (0 < hp.windowBytes) && decide (hp.windowBytes % 8 = 0)

/-- R8: a digest of the host's `Hash` has at most `HLEN` bits. -/
def digestFits (digest : List Byte) : Bool := decide (8 * digest.length ≤ Config.hlen)

end Sys2Proof
end

