-- ==== Sys2Proof/Decode.lean ====
section
/-! DEFINITION. Decoding of a command word, total on all 2^32 words (spec/30_encoding.md R83, R85), and the encoder
(R80, R82, R88). Command words are not fetched from bytes (spec/20_memory.md R69): the word is the unit. -/

namespace Sys2Proof

/-- R10: `v[hi:lo]`. -/
def slice (v hi lo : Nat) : Nat := v / 2 ^ lo % 2 ^ (hi - lo + 1)

/-- Why a word is illegal (R83). Both complete with `IllegalCommand`. -/
inductive DecodeError where
  /-- `OP` is not in the table of R82. -/
  | unassignedOpcode
  /-- A bit the format marks reserved is 1. -/
  | reservedBitSet
deriving DecidableEq, Repr

/-- Format N: bits 23:0 are reserved. -/
def decodeFormatN (v : Nat) (i : Instr) : Except DecodeError Instr :=
  if slice v 23 0 = 0 then .ok i else .error .reservedBitSet

/-- Format I: bits 23:16 are reserved, bits 15:0 are `IMM`. -/
def decodeFormatI (v : Nat) (mk : Nat → Instr) : Except DecodeError Instr :=
  if slice v 23 16 = 0 then .ok (mk (slice v 15 0)) else .error .reservedBitSet

/-- Format D: bits 23:17 are reserved, bit 16 is `E`, bits 15:0 are `IMM`. -/
def decodeFormatD (v : Nat) (mk : Bool → Nat → Instr) : Except DecodeError Instr :=
  if slice v 23 17 = 0 then .ok (mk (slice v 16 16 == 1) (slice v 15 0)) else .error .reservedBitSet

/-- R85, by the opcode map of R82. -/
def decode (w : CmdWord) : Except DecodeError Instr :=
  let v := w.toNat
  match slice v 31 24 with
  | 0x00 => decodeFormatN v .nop
  | 0x0F => decodeFormatN v .zeroize
  | 0x10 => decodeFormatD v .csched
  | 0x11 => decodeFormatN v .csinv
  | 0x12 => decodeFormatI v .cblock
  | 0x20 => decodeFormatI v .kgen
  | 0x21 => decodeFormatN v .kpub
  | 0x22 => decodeFormatN v .kminv
  | 0x23 => decodeFormatI v .kenc
  | 0x24 => decodeFormatI v .kdec
  | 0x30 => decodeFormatN v .eldg
  | 0x31 => decodeFormatN v .epadd
  | 0x32 => decodeFormatN v .epmul
  | 0x33 => decodeFormatN v .esinv
  | 0x34 => decodeFormatN v .ekeygen
  | 0x35 => decodeFormatN v .esign
  | 0x36 => decodeFormatN v .everify
  | _ => .error .unassignedOpcode

/-- R82, column `OP`. -/
def opcode : Instr → Nat
  | .nop => 0x00
  | .zeroize => 0x0F
  | .csched _ _ => 0x10
  | .csinv => 0x11
  | .cblock _ => 0x12
  | .kgen _ => 0x20
  | .kpub => 0x21
  | .kminv => 0x22
  | .kenc _ => 0x23
  | .kdec _ => 0x24
  | .eldg => 0x30
  | .epadd => 0x31
  | .epmul => 0x32
  | .esinv => 0x33
  | .ekeygen => 0x34
  | .esign => 0x35
  | .everify => 0x36

/-- R88: the `E` field of a command word. -/
def dirField : Instr → Nat
  | .csched e _ => if e then 1 else 0
  | _ => 0

/-- R88: the `IMM` field of a command word. -/
def immField : Instr → Nat
  | .csched _ imm => imm
  | .cblock imm => imm
  | .kgen imm => imm
  | .kenc imm => imm
  | .kdec imm => imm
  | _ => 0

/-- R88: the word is `OP << 24 | E << 16 | IMM`. DESIGN CHOICE (log entry 27): for an operand of 65536 or more, for which R88 gives
no word, the three are added, modulo 2^32. -/
def encode (i : Instr) : CmdWord :=
  BitVec.ofNat 32 (opcode i * 2 ^ 24 + dirField i * 2 ^ 16 + immField i)

/-- The instruction the decoder reads from an opcode-table row's `nbits` bits (every bit above them 0). -/
def decodeTableWord (nbits w : Nat) : Option Instr :=
  match decode (BitVec.ofNat 32 (w % 2 ^ nbits)) with
  | .ok i => some i
  | .error _ => none

end Sys2Proof
end

