-- ==== Sys2Proof/Machine/State.lean ====
section
/-! DEFINITION. The state of CORE (spec/10_state.md), the reasons a step can stop, and the state after reset (R37). -/

namespace Sys2Proof.Machine

/-- The errors of spec/60_exceptions.md R221. They end a command by error completion, a next state. -/
inductive CmdError where
  | illegalCommand
  | invalidKeyLength
  | noKey
  | noSchedule
  | bufferRange
  | knapsackLengthMismatch
  | illegalOperand
  | noInverse
deriving DecidableEq, Repr

/-- Why a step stops. -/
inductive Fault where
  /-- Raised by ESIGN only (R172), where no scalar of `[1, n-1]` gives `r ≠ 0` and `s ≠ 0`, so that the hardware would
  resample for ever; R257 excludes it by its fairness assumption. SAFE: the model stops where the hardware goes on
  looping. Log entry 4. -/
  | resampleForever
deriving DecidableEq, Repr

/-- Why a step has no meaning. -/
inductive Refusal where
  /-- An instruction whose arm of exec has no meaning yet; raised by no arm of this model. SAFE. -/
  | notModelled (mnemonic : String)
deriving DecidableEq, Repr

/-- `STATUS` (R23) by its fields; bits 7 and 31:19 are reserved and read 0. -/
structure Status where
  busy : Bool
  done : Bool
  err : Bool
  keyv : Bool
  skv : Bool
  skdir : Bool
  vok : Bool
  errcode : BitVec 8
  serr : Bool
  wbusy : Bool
  badacc : Bool
deriving DecidableEq, Repr

/-- The knapsack registers (R28 to R30). -/
structure KnapRegs where
  klen : BitVec 8
  kw : Vector KnapWord 128
  kb : Vector KnapWord 128
  km : KnapWord
  ka : KnapWord
  kinv : KnapWord
  kkey : BitVec 128
  kc : KnapTotal
deriving DecidableEq, Repr

/-- The curve registers (R31 to R33); `pinf`, `qinf`, `rinf` are the bits of `EFLAGS`. -/
structure CurveRegs where
  ed : Scalar
  eqx : Scalar
  eqy : Scalar
  ee : Digest
  er : Scalar
  es : Scalar
  ek : Scalar
  epx : Scalar
  epy : Scalar
  pinf : Bool
  qinf : Bool
  rinf : Bool
  erx : Scalar
  ery : Scalar
  einv : Scalar
deriving DecidableEq, Repr

/-- The block buffer `DBUF` (R27, R61): the bytes that are not 0, by rising address. -/
abbrev Memory := List Host.Cell

/-- The random-source port (R15, R256), the model's own field: values it has ready (the RAND directive of R87), and the
index of the next free value when it has none ready. Log entry 3. -/
structure Source where
  rand : List Nat
  fresh : Nat
deriving DecidableEq, Repr

/-- One turn of one of the two agents (R7), or an input from outside. Log entry 2. -/
inductive Turn where
  /-- `HostRead(sel, idx)` (R62). -/
  | read (sel : BitVec 8) (idx : BitVec 16)
  /-- `HostWrite(sel, idx, v)` (R63); the low bits of `v`, as many as the register has, are the value (log entry 9). -/
  | write (sel : BitVec 8) (idx : BitVec 16) (v : BitVec 256)
  /-- The host reads `STATUS` until `DONE` reads 1 (R87 `WAIT`, R254); the CORE moves while it waits. -/
  | wait
  /-- The CORE's turn: it completes the command in flight, if there is one (R253). -/
  | core
  /-- Reset is asserted and released (R250). -/
  | reset
  /-- The test directive RAND (R87): the random source will deliver these values, after any of an earlier directive that are
  still unused (log entry 24). -/
  | rand (values : List Nat)
deriving DecidableEq, Repr

/-- The state: every register of R20 but `ID` (hard-wired), the command latch of R36 (a), and the model's own fields
`cfg`, `agenda`, `src`, `rdata`. -/
structure State where
  cfg : Config
  cmd : CmdWord
  cmdl : CmdWord
  status : Status
  ie : Bool
  key : BitVec 128
  sk : Vector Word16 52
  dbuf : Memory
  knap : KnapRegs
  ec : CurveRegs
  agenda : List Turn
  src : Source
  rdata : BitVec 256
deriving DecidableEq, Repr

/-- R37: every flag 0. -/
def Status.reset : Status where
  busy := false
  done := false
  err := false
  keyv := false
  skv := false
  skdir := false
  vok := false
  errcode := 0
  serr := false
  wbusy := false
  badacc := false

/-- R37: every knapsack register and element 0. -/
def KnapRegs.reset : KnapRegs where
  klen := 0
  kw := Vector.ofFn fun _ => 0
  kb := Vector.ofFn fun _ => 0
  km := 0
  ka := 0
  kinv := 0
  kkey := 0
  kc := 0

/-- R37: every curve register and flag 0. -/
def CurveRegs.reset : CurveRegs where
  ed := 0
  eqx := 0
  eqy := 0
  ee := 0
  er := 0
  es := 0
  ek := 0
  epx := 0
  epy := 0
  pinf := false
  qinf := false
  rinf := false
  erx := 0
  ery := 0
  einv := 0

/-- R37, R250: the machine right after reset. `cmdl`, and the model's own `cfg`, `agenda`, `src`, `rdata`, are DESIGN
CHOICES (log entries 7, 1, 2, 3, 12). -/
def State.reset : State where
  cfg := Config.default
  cmd := 0
  cmdl := 0
  status := Status.reset
  ie := false
  key := 0
  sk := Vector.ofFn fun _ => 0
  dbuf := []
  knap := KnapRegs.reset
  ec := CurveRegs.reset
  agenda := []
  src := { rand := [], fresh := 0 }
  rdata := 0

/-- The outcome of a command or of a step. -/
abbrev Result := Host.Outcome State Fault Refusal

end Sys2Proof.Machine
end

