-- ==== Sys2Proof/Machine/Flags.lean ====
section
/-! DEFINITION. The flags: the STATUS word and its bits (spec/10_state.md R23), issue and completion bits
(spec/70_reset_and_hazards.md R253, spec/60_exceptions.md R220), EFLAGS (R33), CTRL (R24), the interrupt (R224). CORE has no
arithmetic flags (R34). -/

namespace Sys2Proof.Machine

/-- R221: the code of an error. -/
def errorCode : CmdError → BitVec 8
  | .illegalCommand => 0x01
  | .invalidKeyLength => 0x02
  | .noKey => 0x03
  | .noSchedule => 0x04
  | .bufferRange => 0x05
  | .knapsackLengthMismatch => 0x06
  | .illegalOperand => 0x07
  | .noInverse => 0x08

/-- One bit of a register at its position. -/
def bitAt (pos : Nat) (b : Bool) : Nat := if b then 2 ^ pos else 0

/-- R23: `STATUS` as the host reads it; reserved bits are 0. -/
def Status.word (st : Status) : CmdWord :=
  BitVec.ofNat 32
    (bitAt 0 st.busy + bitAt 1 st.done + bitAt 2 st.err + bitAt 3 st.keyv + bitAt 4 st.skv + bitAt 5 st.skdir +
      bitAt 6 st.vok + st.errcode.toNat * 2 ^ 8 + bitAt 16 st.serr + bitAt 17 st.wbusy + bitAt 18 st.badacc)

/-- R23: a host write of `STATUS` clears the W1C bits written as 1 (`DONE`, `SERR`, `WBUSY`, `BADACC`), nothing else. -/
def Status.writeOneClear (st : Status) (v : CmdWord) : Status :=
  { st with
    done := st.done && !v.getLsbD 1
    serr := st.serr && !v.getLsbD 16
    wbusy := st.wbusy && !v.getLsbD 17
    badacc := st.badacc && !v.getLsbD 18 }

/-- R253: the bits an issue writes. -/
def Status.issued (st : Status) : Status :=
  { st with busy := true, done := false, err := false, errcode := 0 }

/-- R220, successful completion; that `ERR` and `ERRCODE` end as 0 is written as R191 says it ("as for any successful
command"). DEDUCED, log entry 6. -/
def Status.completed (st : Status) : Status :=
  { st with busy := false, done := true, err := false, errcode := 0 }

/-- R220, error completion: the five fields it writes. -/
def Status.failed (st : Status) (e : CmdError) : Status :=
  { st with busy := false, done := true, err := true, errcode := errorCode e, serr := true }

/-- R191: the flags ZEROIZE clears; the sticky bits stay (and the completion bits are written by the completion). -/
def Status.zeroized (st : Status) : Status :=
  { st with keyv := false, skv := false, skdir := false, vok := false }

/-- R33: `EFLAGS` as the host reads it. -/
def CurveRegs.eflags (r : CurveRegs) : BitVec 8 :=
  BitVec.ofNat 8 (bitAt 0 r.pinf + bitAt 1 r.qinf + bitAt 2 r.rinf)

/-- R33: a host write of `EFLAGS` sets `PINF` and `QINF`; `RINF` and the reserved bits ignore it. -/
def CurveRegs.writeEflags (r : CurveRegs) (v : BitVec 8) : CurveRegs :=
  { r with pinf := v.getLsbD 0, qinf := v.getLsbD 1 }

/-- R24: `CTRL` as the host reads it. -/
def ctrlWord (s : State) : CmdWord := BitVec.ofNat 32 (bitAt 0 s.ie)

/-- R224: the interrupt output, a level. -/
def irq (s : State) : Bool := s.ie && s.status.done

end Sys2Proof.Machine
end

