-- ==== Sys2Proof/Machine/Ops.lean ====
section
/-! DEFINITION. The named operations over memory, the random source and the state: MemRead and MemWrite
(spec/00_scope.md R13), Draw (R15) and the resampling loops (spec/70_reset_and_hazards.md R257), issue (R253), completion and
error completion (spec/60_exceptions.md R220), reset (R250). -/

namespace Sys2Proof.Machine

/-! ### The block buffer -/

/-- The byte at an address; an unlisted one reads 0, the reset contents (R37). -/
def Memory.get : Memory → Nat → Byte
  | [], _ => 0#8
  | (k, v) :: m, a => if k = a then v else Memory.get m a

/-- Store a byte, keeping the canonical form: rising addresses, no entry that is 0. -/
def Memory.set : Memory → Nat → Byte → Memory
  | [], a, v => if v = 0#8 then [] else [(a, v)]
  | (k, w) :: m, a, v =>
    if a < k then (if v = 0#8 then (k, w) :: m else (a, v) :: (k, w) :: m)
    else if a = k then (if v = 0#8 then m else (a, v) :: m)
    else (k, w) :: Memory.set m a v

/-- The canonical form: strictly rising addresses, no listed 0. -/
def Memory.wf : Memory → Bool
  | [] => true
  | (k, v) :: m => v != 0#8 && m.all (fun c => decide (k < c.1)) && Memory.wf m

/-- Every listed address is below `n` (R27: `DBUF` has `DBUF_BYTES` bytes). -/
def Memory.inside (m : Memory) (n : Nat) : Bool := m.all fun c => decide (c.1 < n)

/-- R13: `MemRead(addr, n)`, big-endian. -/
def memRead (m : Memory) (addr : Nat) : Nat → Nat
  | 0 => 0
  | n + 1 => memRead m addr n * 256 + (Memory.get m (addr + n)).toNat

/-- R13: `MemWrite(addr, n, v)`, big-endian. -/
def memWrite (m : Memory) (addr : Nat) : Nat → Nat → Memory
  | 0, _ => m
  | n + 1, v => Memory.set (memWrite m addr n (v / 256)) (addr + n) (BitVec.ofNat 8 v)

/-! ### Element access -/

/-- Element `i` of an array register; an index past the end, which no rule reads, answers 0. -/
def elem {w k : Nat} (v : Vector (BitVec w) k) (i : Nat) : BitVec w := v[i]?.getD 0

/-! ### The random source -/

/-- A value of `[lo, hi]` for what the port delivered: the value itself when it lies in the range (R15). -/
def intoRange (lo hi v : Nat) : Nat := if lo ≤ v ∧ v ≤ hi then v else lo + v % (hi - lo + 1)

/-- R15: `Draw(lo, hi)`. The next value the port has ready, else a free value (log entry 3). -/
def draw (lo hi : Nat) (src : Source) : Nat × Source :=
  match src.rand with
  | v :: vs => (intoRange lo hi v, { src with rand := vs })
  | [] => (intoRange lo hi (Config.freeDraw src.fresh), { src with fresh := src.fresh + 1 })

/-- Draw from the values the port has ready until one is accepted; what it gave and what is left. -/
def takeAccepted {α : Type} (lo hi : Nat) (ok : Nat → Option α) : List Nat → Option (α × List Nat)
  | [] => none
  | v :: vs =>
    match ok (intoRange lo hi v) with
    | some a => some (a, vs)
    | none => takeAccepted lo hi ok vs

/-- The first accepted value from `v` on, in the cyclic order of `[lo, hi]`, trying `fuel` of them. -/
def searchFrom {α : Type} (lo hi : Nat) (ok : Nat → Option α) : Nat → Nat → Option α
  | 0, _ => none
  | fuel + 1, v =>
    match ok v with
    | some a => some a
    | none => searchFrom lo hi ok fuel (if hi ≤ v then lo else v + 1)

/-- R257: a resampling loop over `Draw(lo, hi)`, with the accepted draw taken as the input. After the values the port has
ready, the accepted draw is the free value, or the next accepted one after it: every acceptable value is some free value's, and
no other is. `none` only if no value of the range is acceptable. Log entry 4. -/
def drawUntil {α : Type} (lo hi : Nat) (ok : Nat → Option α) (src : Source) : Option (α × Source) :=
  match takeAccepted lo hi ok src.rand with
  | some (a, rest) => some (a, { src with rand := rest })
  | none =>
    match searchFrom lo hi ok (hi - lo + 1) (intoRange lo hi (Config.freeDraw src.fresh)) with
    | some a => some (a, { rand := [], fresh := src.fresh + 1 })
    | none => none

/-! ### Issue, completion, error completion, reset -/

/-- R253: the issue of command `w`, one host step. It also is what "returns" from an error (R226): it clears `ERR` and
`ERRCODE`. -/
def issue (w : CmdWord) (s : State) : State :=
  { s with cmd := w, cmdl := w, status := s.status.issued }

/-- R220: successful completion of a command whose writes are done in `s`. -/
def succeed (s : State) : Result := .next { s with status := s.status.completed }

/-- R220: error completion, CORE's only exception: no write of the command takes effect. -/
def raise (e : CmdError) (s : State) : Result := .next { s with status := s.status.failed e }

/-- R191: what ZEROIZE clears. -/
def zeroized (s : State) : State :=
  { s with
    status := s.status.zeroized
    key := 0
    sk := Vector.ofFn fun _ => 0
    dbuf := []
    knap := KnapRegs.reset
    ec := CurveRegs.reset }

/-- R250: reset. The configuration, the agents' turns, the random source and what the host last read are no state of the
block and stay (log entry 13). -/
def resetFrom (s : State) : State :=
  { State.reset with cfg := s.cfg, agenda := s.agenda, src := s.src, rdata := s.rdata }

end Sys2Proof.Machine
end

