-- ==== Sys2Proof/Machine/ModMath.lean ====
section
/-! DEFINITION. Modular arithmetic on naturals (spec/00_scope.md R9, R16; spec/43_ec.md R161). -/

namespace Sys2Proof.Machine

/-- R161: `(u - v) mod m`, the residue in `[0, m-1]`, also when `u < v`. -/
def modSub (m u v : Nat) : Nat := (u + (m - v % m)) % m

/-- Extended Euclid with coefficients kept modulo `m`: `r0 ≡ t0 * a` and `r1 ≡ t1 * a`. -/
def modInvLoop (m : Nat) : Nat → Nat → Nat → Nat → Nat → Nat
  | 0, _, t0, _, _ => t0
  | fuel + 1, r0, t0, r1, t1 =>
    if r1 = 0 then t0 else modInvLoop m fuel r1 t1 (r0 % r1) (modSub m t0 (r0 / r1 * t1))

/-- R16: `ModInv(a, m)`, for `m ≥ 2` and `gcd(a mod m, m) = 1`; the algorithm is not normative (log entry 14). -/
def modInv (a m : Nat) : Nat := modInvLoop m (m + 1) m 0 (a % m) 1

end Sys2Proof.Machine
end

