-- ==== Sys2Proof/Machine/CipherMath.lean ====
section
/-! DEFINITION. The cipher's arithmetic: the 16-bit primitives, the key schedule and its inverse
(spec/40_cipher_schedule.md), the round and the output transform (spec/41_cipher_block.md). -/

namespace Sys2Proof.Machine

/-- R100. -/
def add16 (a b : Word16) : Word16 := a + b

/-- R101: a zero operand stands for 65536. -/
def mulOperand (a : Word16) : Nat := if a.toNat = 0 then 65536 else a.toNat

/-- R101: multiplication modulo 65537; the product 65536 is stored as 0. -/
def mul16 (a b : Word16) : Word16 := BitVec.ofNat 16 (mulOperand a * mulOperand b % 65537)

/-- R102. -/
def addInv16 (a : Word16) : Word16 := BitVec.ofNat 16 ((65536 - a.toNat) % 65536)

/-- R103. -/
def mulInv16 (a : Word16) : Word16 := BitVec.ofNat 16 (modInv (mulOperand a) 65537)

/-- R105: `ROL128(K, s)`. -/
def rol128 (k : BitVec 128) (s : Nat) : BitVec 128 := k.rotateLeft s

/-- R104: bits `127-16j : 112-16j` of a 128-bit value, its word `j` counted from the most significant end. -/
def wordOf (k : BitVec 128) (j : Nat) : Word16 := k.extractLsb' (112 - 16 * j) 16

/-- R105: `KeyExpand(K)`; word `8g + j` is word `j` of the key rotated left by `25g mod 128`. -/
def keyExpand (k : BitVec 128) : Vector Word16 52 :=
  Vector.ofFn fun i => wordOf (rol128 k (25 * (i.val / 8) % 128)) (i.val % 8)

/-- R107: subkey `6r + q` of the inverted schedule, for stage `r` and position `q`. -/
def invertedSubkey (z : Vector Word16 52) (r q : Nat) : Word16 :=
  let s := 6 * (8 - r)
  let straight := r == 0 || r == 8
  match q with
  | 0 => mulInv16 (elem z s)
  | 1 => addInv16 (elem z (if straight then s + 1 else s + 2))
  | 2 => addInv16 (elem z (if straight then s + 2 else s + 1))
  | 3 => mulInv16 (elem z (s + 3))
  | q => elem z (6 * (7 - r) + q)

/-- R107: `KeyInvert(Z)`. -/
def keyInvert (z : Vector Word16 52) : Vector Word16 52 :=
  Vector.ofFn fun i => invertedSubkey z (i.val / 6) (i.val % 6)

/-- The four words of a block (R120). -/
structure Block where
  x1 : Word16
  x2 : Word16
  x3 : Word16
  x4 : Word16
deriving DecidableEq, Repr

/-- R121: one round with the six subkeys `sk[base .. base+5]`. -/
def cipherRound (b : Block) (sk : Vector Word16 52) (base : Nat) : Block :=
  let y1 := mul16 b.x1 (elem sk base)
  let y2 := add16 b.x2 (elem sk (base + 1))
  let y3 := add16 b.x3 (elem sk (base + 2))
  let y4 := mul16 b.x4 (elem sk (base + 3))
  let p := y1 ^^^ y3
  let q := y2 ^^^ y4
  let t0 := mul16 p (elem sk (base + 4))
  let t1 := add16 q t0
  let t2 := mul16 t1 (elem sk (base + 5))
  let t3 := add16 t0 t2
  { x1 := y1 ^^^ t2, x2 := y3 ^^^ t2, x3 := y2 ^^^ t3, x4 := y4 ^^^ t3 }

/-- R123: the first `r` rounds in order. -/
def cipherRounds (sk : Vector Word16 52) (b : Block) : Nat → Block
  | 0 => b
  | r + 1 => cipherRound (cipherRounds sk b r) sk (6 * r)

/-- R122: the output transform with `sk[48..51]`; it takes the middle words swapped back. -/
def outputTransform (b : Block) (sk : Vector Word16 52) : Block :=
  { x1 := mul16 b.x1 (elem sk 48)
    x2 := add16 b.x3 (elem sk 49)
    x3 := add16 b.x2 (elem sk 50)
    x4 := mul16 b.x4 (elem sk 51) }

/-- R123: eight rounds, then the output transform. -/
def cipherBlock (sk : Vector Word16 52) (b : Block) : Block := outputTransform (cipherRounds sk b 8) sk

/-- R120: the block at an offset of `DBUF`. -/
def loadBlock (m : Memory) (off : Nat) : Block :=
  { x1 := BitVec.ofNat 16 (memRead m off 2)
    x2 := BitVec.ofNat 16 (memRead m (off + 2) 2)
    x3 := BitVec.ofNat 16 (memRead m (off + 4) 2)
    x4 := BitVec.ofNat 16 (memRead m (off + 6) 2) }

/-- R123: the block written back. -/
def storeBlock (m : Memory) (off : Nat) (b : Block) : Memory :=
  memWrite (memWrite (memWrite (memWrite m off 2 b.x1.toNat) (off + 2) 2 b.x2.toNat) (off + 4) 2 b.x3.toNat)
    (off + 6) 2 b.x4.toNat

end Sys2Proof.Machine
end

