-- ==== Sys2Proof/Machine/CurveMath.lean ====
section
/-! DEFINITION. The curve's arithmetic: point addition, scalar multiplication, the signing attempt and the verification
(spec/43_ec.md R161 to R165, R172, R173). -/

namespace Sys2Proof.Machine

/-- R162: a point is infinity or a pair of coordinates. -/
inductive Point where
  | infinity
  | affine (x y : Nat)
deriving DecidableEq, Repr

/-- R161: `(u / v) mod p`; none for a zero divisor. -/
def modDiv (p u v : Nat) : Option Nat := if v % p = 0 then none else some (u * modInv v p % p)

/-- R163: the third point of the line with slope `lam`. -/
def chord (p x1 y1 x2 lam : Nat) : Point :=
  let x3 := modSub p (modSub p (lam * lam) x1) x2
  .affine x3 (modSub p (lam * modSub p x1 x3) y1)

/-- R163: `PointAdd(P1, P2)`; none where the formulas would divide by zero. -/
def pointAdd (c : Curve) : Point → Point → Option Point
  | .infinity, p2 => some p2
  | p1, .infinity => some p1
  | .affine x1 y1, .affine x2 y2 =>
    if x1 = x2 then
      if (y1 + y2) % c.p = 0 then some .infinity
      else (modDiv c.p (3 * x1 * x1 + c.a) (2 * y1)).map (chord c.p x1 y1 x2)
    else (modDiv c.p (modSub c.p y2 y1) (modSub c.p x2 x1)).map (chord c.p x1 y1 x2)

/-- R164: the loop of `ScalarMul`, its `i` remaining iterations, on the remaining bits `k`, from the accumulators `R`, `A`. -/
def scalarLoop (c : Curve) : Nat → Nat → Point → Point → Option Point
  | 0, _, r, _ => some r
  | i + 1, k, r, a =>
    match (if k % 2 = 1 then pointAdd c r a else some r) with
    | none => none
    | some r' =>
      match pointAdd c a a with
      | none => none
      | some a' => scalarLoop c i (k / 2) r' a'

/-- R164: `ScalarMul(k, P)`, always `ECW` iterations; none where a division by zero would occur. -/
def scalarMul (c : Curve) (k : Nat) (p : Point) : Option Point := scalarLoop c Config.ecw k .infinity p

/-- R160: the base point. -/
def basePoint (c : Curve) : Point := .affine c.gx c.gy

/-- A point from its registers (R32): the coordinates are ignored when the flag is 1. -/
def pointOf (x y : Scalar) (inf : Bool) : Point := if inf then .infinity else .affine x.toNat y.toNat

/-- R32: what is written for a point's x: 0 for infinity. -/
def Point.xReg : Point → Scalar
  | .infinity => 0
  | .affine x _ => BitVec.ofNat 192 x

/-- R32: what is written for a point's y: 0 for infinity. -/
def Point.yReg : Point → Scalar
  | .infinity => 0
  | .affine _ y => BitVec.ofNat 192 y

/-- R32: the infinity flag of a point. -/
def Point.isInfinity : Point → Bool
  | .infinity => true
  | .affine _ _ => false

/-- R171: `z = EE mod n`. -/
def digestScalar (c : Curve) (ee : Digest) : Nat := ee.toNat % c.n

/-- R172: one turn of the signing loop, with private scalar `d`, digest scalar `z` and ephemeral `k`: the signature, or none
for a degenerate attempt. (`ScalarMul(k, G)` is never O on a legal curve; on another one the attempt is degenerate, log
entry 11.) -/
def signAttempt (c : Curve) (d z k : Nat) : Option (Nat × Nat) :=
  match scalarMul c k (basePoint c) with
  | some (.affine x1 _) =>
    let r := x1 % c.n
    if r = 0 then none
    else
      let s := modInv k c.n * (z + r * d) % c.n
      if s = 0 then none else some (r, s)
  | _ => none

/-- R173, from the third line on: the sum `X = u1 G + u2 Q`; none where a division by zero would occur. -/
def verifyPoint (c : Curve) (q : Point) (z r s : Nat) : Option Point :=
  let w := modInv s c.n
  match scalarMul c (z * w % c.n) (basePoint c), scalarMul c (r * w % c.n) q with
  | some p1, some p2 => pointAdd c p1 p2
  | _, _ => none

/-- R173: is the signature `(r, s)` on the digest scalar `z` valid for the public point `q`? -/
def verifySig (c : Curve) (q : Point) (z r s : Nat) : Bool :=
  match verifyPoint c q z r s with
  | some (.affine x _) => x % c.n == r
  | _ => false

end Sys2Proof.Machine
end

