-- ==== Sys2Proof/Machine/KnapMath.lean ====
section
/-! DEFINITION. The knapsack unit's arithmetic: the private sequence, the subset sum and the greedy pass
(spec/42_knapsack.md R141, R142, R145, R146). -/

namespace Sys2Proof.Machine

/-- What the element loop of R142 leaves: the elements in order, their sum, the random source. -/
structure Sequence where
  elements : List Nat
  sum : Nat
  src : Source
deriving DecidableEq, Repr

/-- R142: the element loop, its `count` remaining elements from index `i` on, with the sum `s` so far. -/
def genElements : Nat → Nat → Nat → Source → Sequence
  | 0, _, s, src => { elements := [], sum := s, src := src }
  | count + 1, i, s, src =>
    let delta := draw 0 3 src
    let w := max (2 ^ i) (s + 1) + delta.1
    let rest := genElements count (i + 1) (s + w) delta.2
    { rest with elements := w :: rest.elements }

/-- R142: an acceptable multiplier. -/
def coprimeTo (m a : Nat) : Option Nat := if Nat.gcd a m = 1 then some a else none

/-- R142: the multiplier loop. `M - 1` is always acceptable, so the loop always has a result. -/
def genMultiplier (m : Nat) (src : Source) : Nat × Source := (drawUntil 2 (m - 1) (coprimeTo m) src).getD (m - 1, src)

/-- R141: key bit `j` of `KKEY`. -/
def keyBit (kkey : BitVec 128) (j : Nat) : Bool := kkey.getLsbD (127 - j)

/-- R145: the sum of `b j` over the `j < n` that the key selects. -/
def subsetSum (kkey : BitVec 128) (b : Nat → Nat) : Nat → Nat
  | 0 => 0
  | n + 1 => subsetSum kkey b n + (if keyBit kkey n then b n else 0)

/-- R146: the greedy pass over elements `n-1` down to 0 with the running total `t`: the key bits it finds, bit `j` at place
`127 - j`. -/
def greedyBits (w : Nat → Nat) : Nat → Nat → Nat
  | 0, _ => 0
  | n + 1, t => if w n ≤ t then 2 ^ (127 - n) + greedyBits w n (t - w n) else greedyBits w n t

end Sys2Proof.Machine
end

