-- ==== Sys2Proof/Machine/Operands.lean ====
section
/-! DEFINITION. The operand checks of the commands (spec/60_exceptions.md R221, R223) and their register operands. CORE has no
register fields (spec/30_encoding.md R80): the one explicit operand is `IMM`, with `E` beside it in CSCHED. -/

namespace Sys2Proof.Machine

/-- R142, R221: a legal sequence length: 8, 16, .., 128. -/
def legalLength (n : Nat) : Bool := decide (8 ≤ n) && decide (n ≤ Config.knMax) && decide (n % 8 = 0)

/-- R143, R144, R146: `2 <= KA and KA < KM`. -/
def multiplierInRange (r : KnapRegs) : Bool := decide (2 ≤ r.ka.toNat) && decide (r.ka.toNat < r.km.toNat)

/-- R144, R146: `gcd(KA, KM) = 1`. -/
def multiplierInvertible (r : KnapRegs) : Bool := decide (Nat.gcd r.ka.toNat r.km.toNat = 1)

/-- R145, R146: `8 * IMM = KLEN`. -/
def lengthMatches (imm : Nat) (r : KnapRegs) : Bool := decide (8 * imm = r.klen.toNat)

/-- R143: element `i` of the private sequence as a number. -/
def privateElem (r : KnapRegs) (i : Nat) : Nat := (elem r.kw i).toNat

/-- R145: element `i` of the public sequence as a number. -/
def publicElem (r : KnapRegs) (i : Nat) : Nat := (elem r.kb i).toNat

/-- R162: both coordinates are below `p`. -/
def coordsBelow (c : Curve) (x y : Scalar) : Bool := decide (x.toNat < c.p) && decide (y.toNat < c.p)

/-- R162, R167: the operand is a point: infinity, or coordinates below `p`. -/
def pointLegal (c : Curve) (x y : Scalar) (inf : Bool) : Bool := inf || coordsBelow c x y

/-- R32: the point operand `P`. -/
def pointP (r : CurveRegs) : Point := pointOf r.epx r.epy r.pinf

/-- R32: the public point `Q`. -/
def pointQ (r : CurveRegs) : Point := pointOf r.eqx r.eqy r.qinf

/-- R172, R173: a value of `[1, n-1]`. -/
def inScalarRange (c : Curve) (v : Scalar) : Bool := decide (1 ≤ v.toNat) && decide (v.toNat ≤ c.n - 1)

end Sys2Proof.Machine
end

