-- ==== Sys2Proof/Machine/Cipher.lean ====
section
/-! DEFINITION. The cipher commands CSCHED, CSINV (spec/40_cipher_schedule.md) and CBLOCK (spec/41_cipher_block.md). -/

namespace Sys2Proof.Machine

/-- R109: the schedule for a direction. -/
def scheduleFor (e : Bool) (k : BitVec 128) : Vector Word16 52 :=
  if e then keyExpand k else keyInvert (keyExpand k)

/-- R109. -/
def execCsched (e : Bool) (imm : Nat) (s : State) : Result :=
  if imm ≠ 16 then raise .invalidKeyLength s
  else if s.status.keyv = false then raise .noKey s
  else succeed { s with
    sk := scheduleFor e s.key
    status := { s.status with skv := true, skdir := e } }

/-- R110. -/
def execCsinv (s : State) : Result :=
  if s.status.skv = false then raise .noSchedule s
  else succeed { s with
    sk := keyInvert s.sk
    status := { s.status with skdir := !s.status.skdir } }

/-- R123. -/
def execCblock (imm : Nat) (s : State) : Result :=
  if s.cfg.dbufBytes < imm + 8 then raise .bufferRange s
  else if s.status.skv = false then raise .noSchedule s
  else succeed { s with dbuf := storeBlock s.dbuf imm (cipherBlock s.sk (loadBlock s.dbuf imm)) }

end Sys2Proof.Machine
end

