-- ==== Sys2Proof/Machine/Control.lean ====
section
/-! DEFINITION. The control commands NOP and ZEROIZE (spec/44_control.md). -/

namespace Sys2Proof.Machine

/-- R190. -/
def execNop (s : State) : Result := succeed s

/-- R191. -/
def execZeroize (s : State) : Result := succeed (zeroized s)

end Sys2Proof.Machine
end

