-- ==== Sys2Proof/Machine/CurveUnit.lean ====
section
/-! DEFINITION. The curve commands ELDG, EPADD, EPMUL, ESINV, EKEYGEN, ESIGN, EVERIFY (spec/43_ec.md). -/

namespace Sys2Proof.Machine

/-- R166. -/
def execEldg (s : State) : Result :=
  succeed { s with
    ec := { s.ec with
      epx := BitVec.ofNat 192 s.cfg.curve.gx
      epy := BitVec.ofNat 192 s.cfg.curve.gy
      pinf := false } }

/-- R32, R167, R168: the result point, infinity as `(0, 0, 1)`. -/
def withResult (r : CurveRegs) (p : Point) : CurveRegs :=
  { r with erx := p.xReg, ery := p.yReg, rinf := p.isInfinity }

/-- R167. -/
def execEpadd (s : State) : Result :=
  if pointLegal s.cfg.curve s.ec.epx s.ec.epy s.ec.pinf = false then raise .illegalOperand s
  else if pointLegal s.cfg.curve s.ec.eqx s.ec.eqy s.ec.qinf = false then raise .illegalOperand s
  else
    match pointAdd s.cfg.curve (pointP s.ec) (pointQ s.ec) with
    | none => raise .illegalOperand s
    | some p => succeed { s with ec := withResult s.ec p }

/-- R168: `EK` is not reduced modulo `n`. -/
def execEpmul (s : State) : Result :=
  if pointLegal s.cfg.curve s.ec.epx s.ec.epy s.ec.pinf = false then raise .illegalOperand s
  else
    match scalarMul s.cfg.curve s.ec.ek.toNat (pointP s.ec) with
    | none => raise .illegalOperand s
    | some p => succeed { s with ec := withResult s.ec p }

/-- R169: `v = EK mod n`. -/
def scalarOperand (s : State) : Nat := s.ec.ek.toNat % s.cfg.curve.n

/-- R169. -/
def execEsinv (s : State) : Result :=
  if Nat.gcd (scalarOperand s) s.cfg.curve.n ≠ 1 then raise .noInverse s
  else succeed { s with ec := { s.ec with einv := BitVec.ofNat 192 (modInv (scalarOperand s) s.cfg.curve.n) } }

/-- R170: the public point of a private scalar (never infinity on a legal curve; log entry 11). -/
def publicPoint (c : Curve) (d : Nat) : Point := (scalarMul c d (basePoint c)).getD .infinity

/-- R170: the registers of a generated key pair. -/
def curveKeyPair (c : Curve) (r : CurveRegs) (d : Nat) : CurveRegs :=
  { r with
    ed := BitVec.ofNat 192 d
    eqx := (publicPoint c d).xReg
    eqy := (publicPoint c d).yReg
    qinf := false }

/-- R170. -/
def execEkeygen (s : State) : Result :=
  succeed { s with
    ec := curveKeyPair s.cfg.curve s.ec (draw 1 (s.cfg.curve.n - 1) s.src).1
    src := (draw 1 (s.cfg.curve.n - 1) s.src).2 }

/-- R172: the attempt of one ephemeral scalar, on the operand registers. -/
def signWith (s : State) (k : Nat) : Option (Nat × Nat) :=
  signAttempt s.cfg.curve s.ec.ed.toNat (digestScalar s.cfg.curve s.ec.ee) k

/-- R172. -/
def execEsign (s : State) : Result :=
  if inScalarRange s.cfg.curve s.ec.ed = false then raise .illegalOperand s
  else
    match drawUntil 1 (s.cfg.curve.n - 1) (signWith s) s.src with
    | none => .fault .resampleForever
    | some (rs, src) => succeed { s with
        ec := { s.ec with er := BitVec.ofNat 192 rs.1, es := BitVec.ofNat 192 rs.2 }
        src := src }

/-- R173: the boolean answer; a malformed signature or public point is false, not an error. -/
def verifyAnswer (c : Curve) (r : CurveRegs) : Bool :=
  inScalarRange c r.er && inScalarRange c r.es && !r.qinf && coordsBelow c r.eqx r.eqy &&
    verifySig c (pointQ r) (digestScalar c r.ee) r.er.toNat r.es.toNat

/-- R173. -/
def execEverify (s : State) : Result :=
  succeed { s with status := { s.status with vok := verifyAnswer s.cfg.curve s.ec } }

end Sys2Proof.Machine
end

