-- ==== Sys2Proof/Machine/Knapsack.lean ====
section
/-! DEFINITION. The knapsack commands KGEN, KPUB, KMINV, KENC, KDEC (spec/42_knapsack.md). -/

namespace Sys2Proof.Machine

/-- R142: the registers of a generated key pair. -/
def keyPairRegs (r : KnapRegs) (n : Nat) (w : List Nat) (m a : Nat) : KnapRegs :=
  { r with
    klen := BitVec.ofNat 8 n
    kw := Vector.ofFn fun i => if i.val < n then BitVec.ofNat 136 (w.getD i.val 0) else 0
    kb := Vector.ofFn fun i => if i.val < n then BitVec.ofNat 136 (a * w.getD i.val 0 % m) else 0
    km := BitVec.ofNat 136 m
    ka := BitVec.ofNat 136 a
    kinv := 0 }

/-- R142. -/
def execKgen (imm : Nat) (s : State) : Result :=
  if legalLength imm = false then raise .illegalOperand s
  else
    let seq := genElements imm 0 0 s.src
    let extra := draw 0 (seq.sum - 1) seq.src
    let m := seq.sum + 1 + extra.1
    let mult := genMultiplier m extra.2
    succeed { s with knap := keyPairRegs s.knap imm seq.elements m mult.1, src := mult.2 }

/-- R143: the public sequence, elements `KLEN..127` kept. -/
def publicSequence (r : KnapRegs) : Vector KnapWord 128 :=
  Vector.ofFn fun i =>
    if i.val < r.klen.toNat then BitVec.ofNat 136 (r.ka.toNat * privateElem r i.val % r.km.toNat) else elem r.kb i.val

/-- R143. -/
def execKpub (s : State) : Result :=
  if legalLength s.knap.klen.toNat = false then raise .illegalOperand s
  else if multiplierInRange s.knap = false then raise .illegalOperand s
  else succeed { s with knap := { s.knap with kb := publicSequence s.knap } }

/-- R144: `ModInv(KA, KM)` as a register value. -/
def multiplierInverse (r : KnapRegs) : KnapWord := BitVec.ofNat 136 (modInv r.ka.toNat r.km.toNat)

/-- R144. -/
def execKminv (s : State) : Result :=
  if multiplierInRange s.knap = false then raise .illegalOperand s
  else if multiplierInvertible s.knap = false then raise .noInverse s
  else succeed { s with knap := { s.knap with kinv := multiplierInverse s.knap } }

/-- R145: the total of the elements the key selects. -/
def knapsackTotal (r : KnapRegs) : KnapTotal :=
  BitVec.ofNat 144 (subsetSum r.kkey (publicElem r) r.klen.toNat)

/-- R145. -/
def execKenc (imm : Nat) (s : State) : Result :=
  if lengthMatches imm s.knap = false then raise .knapsackLengthMismatch s
  else if legalLength s.knap.klen.toNat = false then raise .illegalOperand s
  else succeed { s with knap := { s.knap with kc := knapsackTotal s.knap } }

/-- R146: the subset-sum target `T`. -/
def targetSum (r : KnapRegs) : Nat := r.kc.toNat * modInv r.ka.toNat r.km.toNat % r.km.toNat

/-- R146: the key the greedy pass finds; bits below `128 - KLEN` are 0. -/
def recoveredKey (r : KnapRegs) : BitVec 128 :=
  BitVec.ofNat 128 (greedyBits (privateElem r) r.klen.toNat (targetSum r))

/-- R146. -/
def execKdec (imm : Nat) (s : State) : Result :=
  if lengthMatches imm s.knap = false then raise .knapsackLengthMismatch s
  else if legalLength s.knap.klen.toNat = false then raise .illegalOperand s
  else if multiplierInRange s.knap = false then raise .illegalOperand s
  else if multiplierInvertible s.knap = false then raise .noInverse s
  else succeed { s with
    knap := { s.knap with kinv := multiplierInverse s.knap, kkey := recoveredKey s.knap } }

end Sys2Proof.Machine
end

