-- ==== Sys2Proof/Machine/Dispatch.lean ====
section
/-! DEFINITION. One arm per command: its meaning. -/

namespace Sys2Proof.Machine

def exec (i : Instr) (s : State) : Host.Outcome State Fault Refusal :=
  match i with
  | .nop => Sys2Proof.Machine.execNop s
  | .zeroize => Sys2Proof.Machine.execZeroize s
  | .csched e imm => Sys2Proof.Machine.execCsched e imm s
  | .csinv => Sys2Proof.Machine.execCsinv s
  | .cblock imm => Sys2Proof.Machine.execCblock imm s
  | .kgen imm => Sys2Proof.Machine.execKgen imm s
  | .kpub => Sys2Proof.Machine.execKpub s
  | .kminv => Sys2Proof.Machine.execKminv s
  | .kenc imm => Sys2Proof.Machine.execKenc imm s
  | .kdec imm => Sys2Proof.Machine.execKdec imm s
  | .eldg => Sys2Proof.Machine.execEldg s
  | .epadd => Sys2Proof.Machine.execEpadd s
  | .epmul => Sys2Proof.Machine.execEpmul s
  | .esinv => Sys2Proof.Machine.execEsinv s
  | .ekeygen => Sys2Proof.Machine.execEkeygen s
  | .esign => Sys2Proof.Machine.execEsign s
  | .everify => Sys2Proof.Machine.execEverify s

end Sys2Proof.Machine
end

