-- ==== Sys2Proof/Machine/Port.lean ====
section
/-! DEFINITION. The host port: the select space (spec/10_state.md R20), HostRead and HostWrite (spec/20_memory.md R62 to R66). -/

namespace Sys2Proof.Machine

/-- The registers of R20, in its order. -/
inductive Reg where
  | id
  | cmd
  | status
  | ctrl
  | key
  | sk
  | dbuf
  | klen
  | kw
  | kb
  | km
  | ka
  | kinv
  | kkey
  | kc
  | ed
  | eqx
  | eqy
  | ee
  | er
  | es
  | ek
  | epx
  | epy
  | eflags
  | erx
  | ery
  | einv
deriving DecidableEq, Repr

/-- R20, column `sel`. -/
def selOf : Reg → BitVec 8
  | .id => 0x00
  | .cmd => 0x01
  | .status => 0x02
  | .ctrl => 0x03
  | .key => 0x10
  | .sk => 0x11
  | .dbuf => 0x12
  | .klen => 0x20
  | .kw => 0x21
  | .kb => 0x22
  | .km => 0x23
  | .ka => 0x24
  | .kinv => 0x25
  | .kkey => 0x26
  | .kc => 0x27
  | .ed => 0x30
  | .eqx => 0x31
  | .eqy => 0x32
  | .ee => 0x33
  | .er => 0x34
  | .es => 0x35
  | .ek => 0x36
  | .epx => 0x37
  | .epy => 0x38
  | .eflags => 0x39
  | .erx => 0x3A
  | .ery => 0x3B
  | .einv => 0x3C

/-- R20: every register, in the order of its select number. -/
def allRegs : List Reg :=
  [.id, .cmd, .status, .ctrl, .key, .sk, .dbuf, .klen, .kw, .kb, .km, .ka, .kinv, .kkey, .kc, .ed, .eqx, .eqy, .ee, .er,
    .es, .ek, .epx, .epy, .eflags, .erx, .ery, .einv]

/-- R20: the register of a select number; every other one is undefined. -/
def regOf (sel : BitVec 8) : Option Reg := allRegs.find? fun r => selOf r == sel

/-- R20, column Elements. -/
def elements (cfg : Config) : Reg → Nat
  | .sk => 52
  | .dbuf => cfg.dbufBytes
  | .kw => 128
  | .kb => 128
  | _ => 1

/-- R20, column Width. -/
def width : Reg → Nat
  | .id | .cmd | .status | .ctrl => 32
  | .key | .kkey => 128
  | .sk => 16
  | .dbuf | .klen | .eflags => 8
  | .kw | .kb | .km | .ka | .kinv => 136
  | .kc => 144
  | .ee => 256
  | .ed | .eqx | .eqy | .er | .es | .ek | .epx | .epy | .erx | .ery | .einv => 192

/-- R66: the registers whose access is RO. -/
def readOnly : Reg → Bool
  | .id | .sk | .kinv | .erx | .ery | .einv => true
  | _ => false

/-- R65: the registers that read exactly also while `BUSY = 1`. -/
def exactWhileBusy : Reg → Bool
  | .id | .cmd | .status | .ctrl => true
  | _ => false

/-- R66: the register an access reaches; none for an undefined `sel` or an `idx` beyond the last element. -/
def locate (cfg : Config) (sel : BitVec 8) (idx : BitVec 16) : Option Reg :=
  match regOf sel with
  | none => none
  | some r => if idx.toNat < elements cfg r then some r else none

/-- The value of a register or element, seen at 256 bits (R10). -/
def readReg (r : Reg) (i : Nat) (s : State) : BitVec 256 :=
  match r with
  | .id => Config.idVal.setWidth 256
  | .cmd => s.cmd.setWidth 256
  | .status => s.status.word.setWidth 256
  | .ctrl => (ctrlWord s).setWidth 256
  | .key => s.key.setWidth 256
  | .sk => (elem s.sk i).setWidth 256
  | .dbuf => (Memory.get s.dbuf i).setWidth 256
  | .klen => s.knap.klen.setWidth 256
  | .kw => (elem s.knap.kw i).setWidth 256
  | .kb => (elem s.knap.kb i).setWidth 256
  | .km => s.knap.km.setWidth 256
  | .ka => s.knap.ka.setWidth 256
  | .kinv => s.knap.kinv.setWidth 256
  | .kkey => s.knap.kkey.setWidth 256
  | .kc => s.knap.kc.setWidth 256
  | .ed => s.ec.ed.setWidth 256
  | .eqx => s.ec.eqx.setWidth 256
  | .eqy => s.ec.eqy.setWidth 256
  | .ee => s.ec.ee
  | .er => s.ec.er.setWidth 256
  | .es => s.ec.es.setWidth 256
  | .ek => s.ec.ek.setWidth 256
  | .epx => s.ec.epx.setWidth 256
  | .epy => s.ec.epy.setWidth 256
  | .eflags => s.ec.eflags.setWidth 256
  | .erx => s.ec.erx.setWidth 256
  | .ery => s.ec.ery.setWidth 256
  | .einv => s.ec.einv.setWidth 256

/-- R63: a good write while idle. The low bits of `v`, as many as the register is wide, are the value. A write of a
read-only register does not come here (R66). -/
def writeReg (r : Reg) (i : Nat) (v : BitVec 256) (s : State) : State :=
  match r with
  | .cmd => issue (v.setWidth 32) s
  | .status => { s with status := s.status.writeOneClear (v.setWidth 32) }
  | .ctrl => { s with ie := v.getLsbD 0 }
  | .key => { s with key := v.setWidth 128, status := { s.status with keyv := true } }
  | .dbuf => { s with dbuf := Memory.set s.dbuf i (v.setWidth 8) }
  | .klen => { s with knap := { s.knap with klen := v.setWidth 8 } }
  | .kw => { s with knap := { s.knap with kw := s.knap.kw.setIfInBounds i (v.setWidth 136) } }
  | .kb => { s with knap := { s.knap with kb := s.knap.kb.setIfInBounds i (v.setWidth 136) } }
  | .km => { s with knap := { s.knap with km := v.setWidth 136 } }
  | .ka => { s with knap := { s.knap with ka := v.setWidth 136 } }
  | .kkey => { s with knap := { s.knap with kkey := v.setWidth 128 } }
  | .kc => { s with knap := { s.knap with kc := v.setWidth 144 } }
  | .ed => { s with ec := { s.ec with ed := v.setWidth 192 } }
  | .eqx => { s with ec := { s.ec with eqx := v.setWidth 192 } }
  | .eqy => { s with ec := { s.ec with eqy := v.setWidth 192 } }
  | .ee => { s with ec := { s.ec with ee := v } }
  | .er => { s with ec := { s.ec with er := v.setWidth 192 } }
  | .es => { s with ec := { s.ec with es := v.setWidth 192 } }
  | .ek => { s with ec := { s.ec with ek := v.setWidth 192 } }
  | .epx => { s with ec := { s.ec with epx := v.setWidth 192 } }
  | .epy => { s with ec := { s.ec with epy := v.setWidth 192 } }
  | .eflags => { s with ec := s.ec.writeEflags (v.setWidth 8) }
  | .id => s
  | .sk => s
  | .kinv => s
  | .erx => s
  | .ery => s
  | .einv => s

/-- R66: a write that is dropped as a bad access. -/
def badWrite (cfg : Config) (sel : BitVec 8) (idx : BitVec 16) : Bool :=
  match locate cfg sel idx with
  | none => true
  | some r => readOnly r

/-- R64, R66: the sticky bits a dropped write sets. -/
def markDropped (busy bad : Bool) (s : State) : State :=
  { s with status := { s.status with wbusy := s.status.wbusy || busy, badacc := s.status.badacc || bad } }

/-- R63, R64, R66: `HostWrite(sel, idx, v)`. -/
def hostWrite (sel : BitVec 8) (idx : BitVec 16) (v : BitVec 256) (s : State) : State :=
  if s.status.busy || badWrite s.cfg sel idx then markDropped s.status.busy (badWrite s.cfg sel idx) s
  else
    match locate s.cfg sel idx with
    | none => s
    | some r => writeReg r idx.toNat v s

/-- R62, R65, R66: `HostRead(sel, idx)`; what it answers is in `rdata`. -/
def hostRead (sel : BitVec 8) (idx : BitVec 16) (s : State) : State :=
  match locate s.cfg sel idx with
  | none => { s with status := { s.status with badacc := true }, rdata := 0 }
  | some r =>
    if s.status.busy && !exactWhileBusy r then
      { s with
        rdata := BitVec.ofNat 256 ((Config.freeRead s.src.fresh).toNat % 2 ^ width r)
        src := { s.src with fresh := s.src.fresh + 1 } }
    else { s with rdata := readReg r idx.toNat s }

end Sys2Proof.Machine
end

