-- ==== Sys2Proof/Machine/Agents.lean ====
section
/-! DEFINITION. The turns of the two agents (spec/00_scope.md R7): the CORE's one step, completion
(spec/70_reset_and_hazards.md R253), and the host's accesses, waits and reset. -/

namespace Sys2Proof.Machine

/-- R253: completion of the command in the latch `CMDL`; an illegal word completes with `IllegalCommand` (R83). -/
def complete (s : State) : Result :=
  match decode s.cmdl with
  | .ok i => exec i s
  | .error _ => raise .illegalCommand s

/-- R253: the CORE's step, enabled exactly when `BUSY = 1`; an idle CORE holds its state (R229, R258). -/
def coreTurn (s : State) : Result := if s.status.busy then complete s else .next s

/-- R87, R254: the host waits for `DONE`: it reads `STATUS`, and goes on when `DONE` reads 1; else the CORE moves and the
host reads again. `rest` is what the host does after the wait. -/
def waitTurn (rest : List Turn) (s : State) : Result :=
  if s.status.done then .next { hostRead (selOf .status) 0 s with agenda := rest }
  else coreTurn s

/-- One turn, taken from the head of the agenda, with `rest` after it. DESIGN CHOICE (log entry 24): the values of a RAND
directive (R87) met while earlier ones are unused come after those. -/
def takeTurn (t : Turn) (rest : List Turn) (s : State) : Result :=
  match t with
  | .read sel idx => .next (hostRead sel idx { s with agenda := rest })
  | .write sel idx v => .next (hostWrite sel idx v { s with agenda := rest })
  | .wait => waitTurn rest s
  | .core => coreTurn { s with agenda := rest }
  | .reset => .next (resetFrom { s with agenda := rest })
  | .rand vs => .next { s with agenda := rest, src := { s.src with rand := s.src.rand ++ vs } }

/-- The next turn: the head of the agenda; the CORE's when nobody else has one. -/
def nextTurn (s : State) : Result :=
  match s.agenda with
  | [] => coreTurn s
  | t :: rest => takeTurn t rest s

/-- A command word in the latch, just issued, and the CORE's turn next. -/
def placeCommand (w : CmdWord) (s : State) : State :=
  { issue w s with agenda := .core :: s.agenda }

end Sys2Proof.Machine
end

