-- ==== Sys2Proof/Machine/Step.lean ====
section
/-! DEFINITION. The step function, and how a command word comes to be the next one to run. -/

namespace Sys2Proof.Machine

/-- One step: one turn of one agent (R7, R67). -/
def step (s : State) : Host.Outcome State Fault Refusal := nextTurn s

/-- The word issued and the CORE's turn next, so that the very next step completes it. CORE fetches nothing (R35): a command
comes from a host write of `CMD` (R253), for which this stands. Log entry 10. -/
def State.withFetchWord (s : State) (nbits w : Nat) : State :=
  placeCommand (BitVec.ofNat 32 (w % 2 ^ nbits)) s

end Sys2Proof.Machine
end

