-- ==== Sys2Proof/Machine/Script.lean ====
section
/-! DEFINITION. The host's script: its lines (spec/30_encoding.md R87, R88), the pseudo-instructions (R89), and the turns they
stand for. -/

namespace Sys2Proof.Machine

/-- One line of a script (R87), with the pseudo-instructions of R89. What `RD ... -> value` expects is a test's matter, not
a host action. -/
inductive ScriptLine where
  /-- `WR reg[idx], value` -/
  | wr (r : Reg) (idx : BitVec 16) (v : BitVec 256)
  /-- `RD reg[idx]` -/
  | rd (r : Reg) (idx : BitVec 16)
  /-- `CMD mnemonic operands`; an operand of 65536 or more: log entry 27 -/
  | cmd (i : Instr)
  /-- a host write of any word to `CMD`, illegal ones too (R253) -/
  | cmdWord (w : CmdWord)
  /-- `WAIT` -/
  | wait
  /-- `RAND v1, v2, ...` -/
  | rand (values : List Nat)
  /-- `RUN mnemonic operands`; an operand of 65536 or more: log entry 27 -/
  | run (i : Instr)
  /-- `ACK` -/
  | ack
  /-- `CLRSTICKY` -/
  | clrSticky
  /-- `WRBLK off, b0 .. b7`, eight bytes -/
  | wrblk (off : BitVec 16) (bytes : Vector Byte 8)
  /-- `RDBLK off` -/
  | rdblk (off : BitVec 16)
  /-- `CENCKEY` -/
  | cencKey
  /-- `CDECKEY` -/
  | cdecKey
deriving DecidableEq, Repr

/-- R87: `CMD mnemonic operands`. -/
def issueTurn (w : CmdWord) : Turn := .write (selOf .cmd) 0 (w.setWidth 256)

/-- R89: `RUN`. -/
def runTurns (i : Instr) : List Turn := [issueTurn (encode i), .wait]

/-- R89: `WRBLK`, byte by byte from an address. DESIGN CHOICE (log entry 23): an address past 65535, which a 16-bit `idx` cannot
name, goes on at 0. -/
def writeTurns : BitVec 16 → List Byte → List Turn
  | _, [] => []
  | a, b :: bs => .write (selOf .dbuf) a (b.setWidth 256) :: writeTurns (a + 1) bs

/-- R89: `RDBLK`, `count` bytes from an address, wrapping as `writeTurns` does (log entry 23). -/
def readTurns : BitVec 16 → Nat → List Turn
  | _, 0 => []
  | a, count + 1 => .read (selOf .dbuf) a :: readTurns (a + 1) count

/-- R87, R89: the turns of one line. The word of a command is `encode`'s, also for an operand that no word has (log entry 27). -/
def turnsOf : ScriptLine → List Turn
  | .wr r idx v => [.write (selOf r) idx v]
  | .rd r idx => [.read (selOf r) idx]
  | .cmd i => [issueTurn (encode i)]
  | .cmdWord w => [issueTurn w]
  | .wait => [.wait]
  | .rand vs => [.rand vs]
  | .run i => runTurns i
  | .ack => [.write (selOf .status) 0 0x00000002]
  | .clrSticky => [.write (selOf .status) 0 0x00070000]
  | .wrblk off bytes => writeTurns off bytes.toList
  | .rdblk off => readTurns off 8
  | .cencKey => runTurns (.csched true 16)
  | .cdecKey => runTurns (.csched false 16)

/-- A script as the agenda of the machine. DESIGN CHOICE (log entry 26): no turn of the CORE stands between lines, so after a `CMD`
with no `WAIT` the completion falls in the next `WAIT`, or after the last line; R225 allows other orders, which an agenda with
`core` turns between the lines gives. -/
def turnsOfScript (lines : List ScriptLine) : List Turn := lines.flatMap turnsOf

end Sys2Proof.Machine
end

