-- ==== Sys2Proof/Machine/HostSoftware.lean ====
section
/-! DEFINITION. The host software CP settles (spec/45_host_sequences.md): passphrase folding, chained-block mode, the streaming
transform, the digest and key transport. It is not hardware state and no step of CORE; it drives CORE through the port's own
operations. -/

namespace Sys2Proof.Machine

/-! ### Key and IV from a passphrase -/

/-- R201: the fold of the bytes from index `i` on. -/
def foldFrom (len : Nat) : Nat → List Byte → List Byte → List Byte
  | _, [], out => out
  | i, b :: bs, out => foldFrom len (i + 1) bs (out.set (i % len) (out.getD (i % len) 0 ^^^ b))

/-- R201: `Fold(pass, L)`, for `L ≥ 1` (log entry 28). -/
def fold (pass : List Byte) (len : Nat) : List Byte := foldFrom len 0 pass (List.replicate len 0)

/-- R11: `BE(B)`. -/
def bigEndian (bytes : List Byte) : Nat := bytes.foldl (fun acc b => acc * 256 + b.toNat) 0

/-! ### Running commands -/

/-- Why a host operation aborts (R212; `IOError` and `IOFailure` are one, spec/90_conflicts.md C9). -/
inductive HostError where
  /-- a stream could not be read or written -/
  | ioFailure
  /-- a CORE command ended with `ERR = 1` -/
  | coreError (code : BitVec 8)
  /-- the CORE's step did not end in a next state -/
  | coreStopped
  /-- a host parameter outside what R8 allows (log entry 25) -/
  | illegalParameter
deriving DecidableEq, Repr

/-- What an aborted operation leaves: why, and the CORE as it then is (R212, R220). -/
structure HostAbort where
  error : HostError
  core : State
deriving DecidableEq, Repr

/-- R255 item 3: the host reads `ERR` after a completion. -/
def checkError (t : State) : Except HostAbort State :=
  if t.status.err then .error { error := .coreError t.status.errcode, core := t } else .ok t

/-- R89 `RUN`: issue the command, then the CORE completes it; then read `ERR`. -/
def runChecked (i : Instr) (s : State) : Except HostAbort State :=
  let issued := hostWrite (selOf .cmd) 0 ((encode i).setWidth 256) s
  match coreTurn issued with
  | .next t => checkError t
  | _ => .error { error := .coreStopped, core := issued }

/-- R89 `WRBLK`, at consecutive addresses, wrapping as `writeTurns` does (log entry 23). -/
def hostWriteBytes : BitVec 16 → List Byte → State → State
  | _, [], s => s
  | off, b :: bs, s => hostWriteBytes (off + 1) bs (hostWrite (selOf .dbuf) off (b.setWidth 256) s)

/-- R89 `RDBLK`: `count` bytes, and the state after the reads; wrapping as `writeTurns` does (log entry 23). -/
def hostReadBytes : BitVec 16 → Nat → State → List Byte × State
  | _, 0, s => ([], s)
  | off, count + 1, s =>
    let s1 := hostRead (selOf .dbuf) off s
    let rest := hostReadBytes (off + 1) count s1
    (s1.rdata.setWidth 8 :: rest.1, rest.2)

/-- R204, R205: the block written at `off`, transformed, read back. -/
def transformVia (off : BitVec 16) (block : List Byte) (s : State) : Except HostAbort (List Byte × State) :=
  match runChecked (.cblock off.toNat) (hostWriteBytes off block s) with
  | .error e => .error e
  | .ok t => .ok (hostReadBytes off 8 t)

/-! ### Chained-block mode -/

/-- R202, R203: a session: its IV (a host variable), its direction, the offset of its block slot (R204: a legal one). -/
structure Session where
  iv : List Byte
  forEncryption : Bool
  off : BitVec 16
deriving DecidableEq, Repr

/-- Bytewise XOR of two blocks of eight bytes (R204; log entry 28). -/
def xorBytes (a b : List Byte) : List Byte := List.zipWith (· ^^^ ·) a b

/-- R203: load the key, derive the schedule for the direction, start with the folded IV. -/
def openSession (pass : List Byte) (forEncryption : Bool) (off : BitVec 16) (s : State) :
    Except HostAbort (Session × State) :=
  match runChecked (.csched forEncryption 16)
      (hostWrite (selOf .key) 0 (BitVec.ofNat 256 (bigEndian (fold pass 16))) s) with
  | .error e => .error e
  | .ok t => .ok ({ iv := fold pass 8, forEncryption := forEncryption, off := off }, t)

/-- R204: `processBlock` when encrypting. -/
def encryptBlock (ss : Session) (block : List Byte) (s : State) : Except HostAbort (List Byte × Session × State) :=
  match transformVia ss.off (xorBytes block ss.iv) s with
  | .error e => .error e
  | .ok (c, t) => .ok (c, { ss with iv := c }, t)

/-- R205: `processBlock` when decrypting. -/
def decryptBlock (ss : Session) (block : List Byte) (s : State) : Except HostAbort (List Byte × Session × State) :=
  match transformVia ss.off block s with
  | .error e => .error e
  | .ok (t0, t) => .ok (xorBytes t0 ss.iv, { ss with iv := block }, t)

/-- R204, R205: `processBlock`. An abort leaves the session's IV as it was. -/
def processBlock (ss : Session) (block : List Byte) (s : State) : Except HostAbort (List Byte × Session × State) :=
  if ss.forEncryption then encryptBlock ss block s else decryptBlock ss block s

/-- What the blocks of a window leave: their outputs, the session and the CORE after the last one tried, and the error that
aborted it, if one did. -/
structure BlocksEnd where
  output : List Byte
  session : Session
  core : State
  failure : Option HostError
deriving DecidableEq, Repr

/-- R207: the blocks of a window in order, the outputs concatenated; an abort keeps the IV of the last block that went through
and the CORE as the failed command left it (R212). -/
def processBlocks : List (List Byte) → Session → State → BlocksEnd
  | [], ss, s => { output := [], session := ss, core := s, failure := none }
  | b :: bs, ss, s =>
    match processBlock ss b s with
    | .error e => { output := [], session := ss, core := e.core, failure := some e.error }
    | .ok (o, ss1, s1) =>
      let rest := processBlocks bs ss1 s1
      { rest with output := o ++ rest.output }

/-! ### Streaming transform -/

/-- The list cut into pieces of `size`, the last one possibly shorter; `fuel` pieces at most. -/
def chunks (size : Nat) : Nat → List Byte → List (List Byte)
  | 0, _ => []
  | _ + 1, [] => []
  | fuel + 1, b :: bs => (b :: bs).take size :: chunks size fuel ((b :: bs).drop size)

/-- R207: zero bytes appended until the length is a multiple of 8. -/
def padWindow (win : List Byte) : List Byte := win ++ List.replicate ((8 - win.length % 8) % 8) 0

/-- R207, R208: every trailing zero byte removed. -/
def stripZeros (bytes : List Byte) : List Byte := (bytes.reverse.dropWhile (· == 0)).reverse

/-- What a stream operation leaves: the bytes written to the destination, the progress calls as fractions `done / total`
(R211), the session and CORE's state, and the error that aborted it, if one did (R212). -/
structure StreamEnd where
  destination : List Byte
  progress : List (Nat × Nat)
  session : Session
  core : State
  failure : Option HostError
deriving DecidableEq, Repr

/-- The windows at which the source cannot be read or the destination not written (R212). -/
structure StreamFaults where
  unreadable : List Nat
  unwritable : List Nat
deriving DecidableEq, Repr

/-- R207: what is written for a window: in a decrypting run the final one loses its trailing zero bytes. -/
def outputWindow (forEncryption final : Bool) (out : List Byte) : List Byte :=
  if !forEncryption && final then stripZeros out else out

/-- R207: one window after the other; `k` is the index of the window, `done` the bytes read before it. -/
def streamWindows (faults : StreamFaults) (total : Nat) : List (List Byte) → Nat → Nat → StreamEnd → StreamEnd
  | [], _, _, acc => acc
  | win :: rest, k, done, acc =>
    if faults.unreadable.contains k then { acc with failure := some .ioFailure }
    else
      let blocks := processBlocks (chunks 8 (padWindow win).length (padWindow win)) acc.session acc.core
      let acc' := { acc with session := blocks.session, core := blocks.core }
      match blocks.failure with
      | some e => { acc' with failure := some e }
      | none =>
        if faults.unwritable.contains k then { acc' with failure := some .ioFailure }
        else
          let done' := done + win.length
          streamWindows faults total rest (k + 1) done'
            { acc' with
              destination := acc.destination ++ outputWindow acc.session.forEncryption (done' == total) blocks.output
              progress := acc.progress ++ [(done', total)] }

/-- R210: the progress of an empty source, a host parameter. -/
def emptySourceProgress : EmptyProgress → List (Nat × Nat)
  | .oneCallback => [(1, 1)]
  | .noCallback => []

/-- R207, R210: `run` of a stream transform. An empty source runs the loop zero times. A window size that R8 excludes is refused
by name before anything is read (log entry 25). -/
def streamRun (hp : HostParams) (faults : StreamFaults) (source : List Byte) (ss : Session) (s : State) : StreamEnd :=
  let start : StreamEnd := { destination := [], progress := [], session := ss, core := s, failure := none }
  if hp.wf = false then { start with failure := some .illegalParameter }
  else if source.isEmpty then { start with progress := emptySourceProgress hp.emptyProgress }
  else streamWindows faults source.length (chunks hp.windowBytes source.length source) 0 0 start

/-! ### Other host duties -/

/-- R213: the digest of the message, written to `EE` as a big-endian integer; `hash` is the host's parameter `Hash`. A digest of
more than `HLEN` bits, which R8 excludes, is refused by name (log entry 25). -/
def writeDigest (hash : List Byte → List Byte) (message : List Byte) (s : State) : Except HostAbort State :=
  if digestFits (hash message) = false then .error { error := .illegalParameter, core := s }
  else .ok (hostWrite (selOf .ee) 0 (BitVec.ofNat 256 (bigEndian (hash message))) s)

/-- R214: the host copies the unwrapped key from `KKEY` to `KEY`. -/
def transportKey (s : State) : State :=
  let t := hostRead (selOf .kkey) 0 s
  hostWrite (selOf .key) 0 t.rdata t

end Sys2Proof.Machine
end

