-- ==== Sys2Proof/Safety.lean ====
section
/-! DEFINITION. What the claims speak of: legal curves (spec/43_ec.md R160), key pairs (spec/42_knapsack.md R140), the
invariant of the machine's states, what a command leaves unchanged, the match and mask table of
spec/30_encoding.md R82, and the select map of spec/10_state.md R20. -/

namespace Sys2Proof.Machine

/-- The command word table of R82: match and mask of each command. -/
def matchMask : Instr → CmdWord × CmdWord
  | .nop => (0x00000000, 0xFFFFFFFF)
  | .zeroize => (0x0F000000, 0xFFFFFFFF)
  | .csched _ _ => (0x10000000, 0xFFFE0000)
  | .csinv => (0x11000000, 0xFFFFFFFF)
  | .cblock _ => (0x12000000, 0xFFFF0000)
  | .kgen _ => (0x20000000, 0xFFFF0000)
  | .kpub => (0x21000000, 0xFFFFFFFF)
  | .kminv => (0x22000000, 0xFFFFFFFF)
  | .kenc _ => (0x23000000, 0xFFFF0000)
  | .kdec _ => (0x24000000, 0xFFFF0000)
  | .eldg => (0x30000000, 0xFFFFFFFF)
  | .epadd => (0x31000000, 0xFFFFFFFF)
  | .epmul => (0x32000000, 0xFFFFFFFF)
  | .esinv => (0x33000000, 0xFFFFFFFF)
  | .ekeygen => (0x34000000, 0xFFFFFFFF)
  | .esign => (0x35000000, 0xFFFFFFFF)
  | .everify => (0x36000000, 0xFFFFFFFF)

/-- R160, R162: a pair of coordinates below `p` on the curve, or infinity. -/
def OnCurve (c : Curve) : Point → Prop
  | .infinity => True
  | .affine x y => x < c.p ∧ y < c.p ∧ y * y % c.p = (x ^ 3 + c.a * x + c.b) % c.p

/-- R160: the premises of a legal curve: the computable ones, primality of `p` and `n`, and `n` the order of `G`. -/
def Curve.Legal (c : Curve) : Prop :=
  c.wf = true ∧ Nat.Prime c.p ∧ Nat.Prime c.n ∧
  scalarMul c c.n (basePoint c) = some .infinity ∧
  ∀ k, 0 < k → k < c.n → scalarMul c k (basePoint c) ≠ some .infinity

/-- R140, in the registers: superincreasing `KW`, modulus above the sum, multiplier in range and coprime, `KB` derived. -/
def IsKeyPair (r : KnapRegs) : Prop :=
  legalLength r.klen.toNat = true ∧
  (∀ i, i < r.klen.toNat → (∑ j ∈ Finset.range i, privateElem r j) < privateElem r i) ∧
  (∑ j ∈ Finset.range r.klen.toNat, privateElem r j) < r.km.toNat ∧
  2 ≤ r.ka.toNat ∧ r.ka.toNat < r.km.toNat ∧ Nat.gcd r.ka.toNat r.km.toNat = 1 ∧
  ∀ i, i < r.klen.toNat → publicElem r i = r.ka.toNat * privateElem r i % r.km.toNat

/-- `DBUF` is in its canonical form and holds nothing outside its `DBUF_BYTES` bytes (R27). -/
def MemoryInv (s : State) : Bool := Memory.wf s.dbuf && Memory.inside s.dbuf s.cfg.dbufBytes

/-- The latch equals `CMD` (R36 (a)). -/
def LatchInv (s : State) : Bool := s.cmdl == s.cmd

/-- The completion bits (R23, R220, R253): while a command is in flight `DONE`, `ERR` and `ERRCODE` are 0; `ERRCODE` is 0
exactly when `ERR` is, and is an assigned code of R221. -/
def StatusInv (st : Status) : Bool :=
  (!st.busy || (!st.done && !st.err)) && ((st.errcode == 0) == !st.err) && decide (st.errcode.toNat ≤ 8)

/-- The valid flags (R23, R26): `KEY` is 0 while never written; without a schedule the subkeys read 0 and `SKDIR` is 0. -/
def ValidInv (s : State) : Bool :=
  (s.status.keyv || s.key == 0) && (s.status.skv || (s.sk == (Vector.ofFn fun _ => 0) && !s.status.skdir))

/-- R32: an infinite result point has both coordinates 0. -/
def ResultInv (r : CurveRegs) : Bool := !r.rinf || (r.erx == 0 && r.ery == 0)

/-- The invariant of the machine's states. -/
def Inv (s : State) : Bool :=
  MemoryInv s && LatchInv s && StatusInv s.status && ValidInv s && ResultInv s.ec

/-- What no command ever changes (R38, R191): the parameters, `CMD`, its latch, `CTRL`, the host-side sticky bits, the
host's turns and its last read. -/
def HostSideKept (s t : State) : Prop :=
  t.cfg = s.cfg ∧ t.cmd = s.cmd ∧ t.cmdl = s.cmdl ∧ t.ie = s.ie ∧ t.status.wbusy = s.status.wbusy ∧
  t.status.badacc = s.status.badacc ∧ t.agenda = s.agenda ∧ t.rdata = s.rdata

/-- `STATUS` after a successful completion (R220, R191), its other bits as they were. -/
def doneStatus (st : Status) : Status := { st with busy := false, done := true, err := false, errcode := 0 }

/-- `STATUS` after an error completion with a code of R221 (R220), its other bits as they were. -/
def failStatus (st : Status) (code : BitVec 8) : Status :=
  { st with busy := false, done := true, err := true, errcode := code, serr := true }

/-- The state after an error completion: nothing but the five fields of `STATUS` has changed (R220). -/
def failState (s : State) (code : BitVec 8) : State := { s with status := failStatus s.status code }

/-- Subkey `i` of a schedule as a function, 0 past the end. -/
def subkey (z : Vector Word16 52) (i : Nat) : Word16 := elem z i

/-- R105, the equivalent form: word `i` of the schedule is the 16 bits of the key that start at position
`(25g + 16j) mod 128`, counted from the most significant end and wrapping at 128, for `i = 8g + j`. -/
def IsScheduleOf (z : Vector Word16 52) (k : BitVec 128) : Prop :=
  ∀ i b, i < 52 → b < 16 → (subkey z i).getMsbD b = k.getMsbD ((25 * (i / 8) + 16 * (i % 8) + b) % 128)

/-- R107 by its meaning: the multipliers of stage `r` are the inverses of those of stage `8 - r`, the addends the negatives,
swapped in the inner stages, and the two middle subkeys of round `r` those of round `7 - r`. -/
def IsInverseSchedule (z d : Vector Word16 52) : Prop :=
  (∀ r, r ≤ 8 → mul16 (subkey d (6 * r)) (subkey z (6 * (8 - r))) = 1 ∧
    mul16 (subkey d (6 * r + 3)) (subkey z (6 * (8 - r) + 3)) = 1) ∧
  (∀ r, r = 0 ∨ r = 8 → subkey d (6 * r + 1) + subkey z (6 * (8 - r) + 1) = 0 ∧
    subkey d (6 * r + 2) + subkey z (6 * (8 - r) + 2) = 0) ∧
  (∀ r, 1 ≤ r → r ≤ 7 → subkey d (6 * r + 1) + subkey z (6 * (8 - r) + 2) = 0 ∧
    subkey d (6 * r + 2) + subkey z (6 * (8 - r) + 1) = 0) ∧
  (∀ r, r ≤ 7 → subkey d (6 * r + 4) = subkey z (6 * (7 - r) + 4) ∧ subkey d (6 * r + 5) = subkey z (6 * (7 - r) + 5))

/-- R163: `lam` is the slope of the line through two points of different x, or of the tangent for equal x, modulo `p`. -/
def IsSlope (c : Curve) (x1 y1 x2 y2 lam : Nat) : Prop :=
  if x1 = x2 then (lam : ZMod c.p) * (2 * y1) = 3 * x1 * x1 + c.a
  else (lam : ZMod c.p) * ((x2 : ZMod c.p) - x1) = (y2 : ZMod c.p) - y1

/-- R163: `(x3, y3)` is the third point of the line with slope `lam`, modulo `p`. -/
def IsThirdPoint (c : Curve) (x1 y1 x2 lam x3 y3 : Nat) : Prop :=
  x3 < c.p ∧ y3 < c.p ∧ (x3 : ZMod c.p) = (lam : ZMod c.p) * lam - x1 - x2 ∧
  (y3 : ZMod c.p) = (lam : ZMod c.p) * ((x1 : ZMod c.p) - x3) - y1

/-- R163: the formulas would divide by zero: equal x, `y1 + y2 ≠ 0` and `y1 = 0` modulo `p`. -/
def ZeroDivisor (c : Curve) : Point → Point → Prop
  | .affine x1 y1, .affine x2 y2 => x1 = x2 ∧ (y1 + y2) % c.p ≠ 0 ∧ 2 * y1 % c.p = 0
  | _, _ => False

/-- A row of the table of R20: select number, register, elements, width in bits, and whether a host write is a bad access. -/
structure SelectRow where
  sel : BitVec 8
  reg : Reg
  count : Nat
  bits : Nat
  ro : Bool
deriving DecidableEq, Repr

/-- The table of R20. (`STATUS` is "RO with W1C bits": a write of it is no bad access, R66.) -/
def selectTable (cfg : Config) : List SelectRow :=
  [⟨0x00, .id, 1, 32, true⟩,
   ⟨0x01, .cmd, 1, 32, false⟩,
   ⟨0x02, .status, 1, 32, false⟩,
   ⟨0x03, .ctrl, 1, 32, false⟩,
   ⟨0x10, .key, 1, 128, false⟩,
   ⟨0x11, .sk, 52, 16, true⟩,
   ⟨0x12, .dbuf, cfg.dbufBytes, 8, false⟩,
   ⟨0x20, .klen, 1, 8, false⟩,
   ⟨0x21, .kw, 128, 136, false⟩,
   ⟨0x22, .kb, 128, 136, false⟩,
   ⟨0x23, .km, 1, 136, false⟩,
   ⟨0x24, .ka, 1, 136, false⟩,
   ⟨0x25, .kinv, 1, 136, true⟩,
   ⟨0x26, .kkey, 1, 128, false⟩,
   ⟨0x27, .kc, 1, 144, false⟩,
   ⟨0x30, .ed, 1, 192, false⟩,
   ⟨0x31, .eqx, 1, 192, false⟩,
   ⟨0x32, .eqy, 1, 192, false⟩,
   ⟨0x33, .ee, 1, 256, false⟩,
   ⟨0x34, .er, 1, 192, false⟩,
   ⟨0x35, .es, 1, 192, false⟩,
   ⟨0x36, .ek, 1, 192, false⟩,
   ⟨0x37, .epx, 1, 192, false⟩,
   ⟨0x38, .epy, 1, 192, false⟩,
   ⟨0x39, .eflags, 1, 8, false⟩,
   ⟨0x3A, .erx, 1, 192, true⟩,
   ⟨0x3B, .ery, 1, 192, true⟩,
   ⟨0x3C, .einv, 1, 192, true⟩]

/-- R20: the port's register map is that table, and every other select is undefined. -/
def IsSelectMap (cfg : Config) : Prop :=
  (∀ row ∈ selectTable cfg, regOf row.sel = some row.reg ∧ elements cfg row.reg = row.count ∧
    width row.reg = row.bits ∧ readOnly row.reg = row.ro) ∧
  ∀ sel : BitVec 8, (∀ row ∈ selectTable cfg, row.sel ≠ sel) → regOf sel = none

/-- R20, R63: the field that an idle write of each plain register sets, and that nothing else changes but `KEYV` with `KEY`. -/
def WritesSetTheirFields (s : State) : Prop :=
  (∀ v : BitVec 128, hostWrite 0x10 0 (v.setWidth 256) s = { s with key := v, status := { s.status with keyv := true } }) ∧
  (∀ (i : BitVec 16) (v : Byte), i.toNat < s.cfg.dbufBytes →
    hostWrite 0x12 i (v.setWidth 256) s = { s with dbuf := Memory.set s.dbuf i.toNat v }) ∧
  (∀ (i : BitVec 16) (v : KnapWord) (h : i.toNat < 128),
    hostWrite 0x21 i (v.setWidth 256) s = { s with knap := { s.knap with kw := s.knap.kw.set i.toNat v h } }) ∧
  (∀ (i : BitVec 16) (v : KnapWord) (h : i.toNat < 128),
    hostWrite 0x22 i (v.setWidth 256) s = { s with knap := { s.knap with kb := s.knap.kb.set i.toNat v h } }) ∧
  (∀ v : BitVec 8, hostWrite 0x20 0 (v.setWidth 256) s = { s with knap := { s.knap with klen := v } }) ∧
  (∀ v : BitVec 136, hostWrite 0x23 0 (v.setWidth 256) s = { s with knap := { s.knap with km := v } }) ∧
  (∀ v : BitVec 136, hostWrite 0x24 0 (v.setWidth 256) s = { s with knap := { s.knap with ka := v } }) ∧
  (∀ v : BitVec 128, hostWrite 0x26 0 (v.setWidth 256) s = { s with knap := { s.knap with kkey := v } }) ∧
  (∀ v : BitVec 144, hostWrite 0x27 0 (v.setWidth 256) s = { s with knap := { s.knap with kc := v } }) ∧
  (∀ v : Scalar, hostWrite 0x30 0 (v.setWidth 256) s = { s with ec := { s.ec with ed := v } }) ∧
  (∀ v : Scalar, hostWrite 0x31 0 (v.setWidth 256) s = { s with ec := { s.ec with eqx := v } }) ∧
  (∀ v : Scalar, hostWrite 0x32 0 (v.setWidth 256) s = { s with ec := { s.ec with eqy := v } }) ∧
  (∀ v : Scalar, hostWrite 0x34 0 (v.setWidth 256) s = { s with ec := { s.ec with er := v } }) ∧
  (∀ v : Scalar, hostWrite 0x35 0 (v.setWidth 256) s = { s with ec := { s.ec with es := v } }) ∧
  (∀ v : Scalar, hostWrite 0x36 0 (v.setWidth 256) s = { s with ec := { s.ec with ek := v } }) ∧
  (∀ v : Scalar, hostWrite 0x37 0 (v.setWidth 256) s = { s with ec := { s.ec with epx := v } }) ∧
  (∀ v : Scalar, hostWrite 0x38 0 (v.setWidth 256) s = { s with ec := { s.ec with epy := v } }) ∧
  (∀ v : Digest, hostWrite 0x33 0 v s = { s with ec := { s.ec with ee := v } })

/-- R20, R62: the field that an idle read of each register shows. -/
def ReadsShowTheirFields (s : State) : Prop :=
  (hostRead 0x00 0 s).rdata = 0x43503037 ∧
  (hostRead 0x01 0 s).rdata = s.cmd.setWidth 256 ∧
  (hostRead 0x02 0 s).rdata = s.status.word.setWidth 256 ∧
  (hostRead 0x10 0 s).rdata = s.key.setWidth 256 ∧
  (hostRead 0x20 0 s).rdata = s.knap.klen.setWidth 256 ∧
  (hostRead 0x23 0 s).rdata = s.knap.km.setWidth 256 ∧
  (hostRead 0x24 0 s).rdata = s.knap.ka.setWidth 256 ∧
  (hostRead 0x26 0 s).rdata = s.knap.kkey.setWidth 256 ∧
  (hostRead 0x27 0 s).rdata = s.knap.kc.setWidth 256 ∧
  (hostRead 0x25 0 s).rdata = s.knap.kinv.setWidth 256 ∧
  (hostRead 0x30 0 s).rdata = s.ec.ed.setWidth 256 ∧
  (hostRead 0x31 0 s).rdata = s.ec.eqx.setWidth 256 ∧
  (hostRead 0x32 0 s).rdata = s.ec.eqy.setWidth 256 ∧
  (hostRead 0x34 0 s).rdata = s.ec.er.setWidth 256 ∧
  (hostRead 0x35 0 s).rdata = s.ec.es.setWidth 256 ∧
  (hostRead 0x36 0 s).rdata = s.ec.ek.setWidth 256 ∧
  (hostRead 0x37 0 s).rdata = s.ec.epx.setWidth 256 ∧
  (hostRead 0x38 0 s).rdata = s.ec.epy.setWidth 256 ∧
  (hostRead 0x3A 0 s).rdata = s.ec.erx.setWidth 256 ∧
  (hostRead 0x3B 0 s).rdata = s.ec.ery.setWidth 256 ∧
  (hostRead 0x3C 0 s).rdata = s.ec.einv.setWidth 256 ∧
  (hostRead 0x03 0 s).rdata = (if s.ie then 1 else 0) ∧
  (hostRead 0x33 0 s).rdata = s.ec.ee ∧
  (hostRead 0x39 0 s).rdata =
    (if s.ec.pinf then 1 else 0) + (if s.ec.qinf then 2 else 0) + (if s.ec.rinf then 4 else 0) ∧
  (∀ i : BitVec 16, i.toNat < s.cfg.dbufBytes → (hostRead 0x12 i s).rdata = (Memory.get s.dbuf i.toNat).setWidth 256) ∧
  (∀ (i : BitVec 16) (h : i.toNat < 52), (hostRead 0x11 i s).rdata = s.sk[i.toNat].setWidth 256) ∧
  (∀ (i : BitVec 16) (h : i.toNat < 128), (hostRead 0x21 i s).rdata = s.knap.kw[i.toNat].setWidth 256) ∧
  (∀ (i : BitVec 16) (h : i.toNat < 128), (hostRead 0x22 i s).rdata = s.knap.kb[i.toNat].setWidth 256)

end Sys2Proof.Machine
end

