-- ==== Sys2Proof/Certificates/Slice0/Obligations.lean ====
section
/-! DEFINITION. The statements for the provers, from the numbered rules of spec/. -/

open Sys2Proof Sys2Proof.Machine

/-! ### Encoding (spec/30_encoding.md) -/

/-- R85, R88: decoding the word of a well-formed command gives the command back, every operand at every value. -/
def Obligations.DecodeOfEncode : Prop :=
  ∀ i : Instr, i.wellFormed = true → decode (encode i) = .ok i

/-- R83, R85: a legal word is the word of the command it decodes to: no bit of it is ignored. -/
def Obligations.LegalWordIsItsEncoding : Prop :=
  ∀ (w : CmdWord) (i : Instr), decode w = .ok i → i.wellFormed = true ∧ encode i = w

/-- R82, R83: a word is a command iff `w and mask = match` for that command's row, and illegal iff it is no command's. -/
def Obligations.LegalIffMatchesRow : Prop :=
  (∀ (w : CmdWord) (i : Instr), decode w = .ok i → w &&& (matchMask i).2 = (matchMask i).1) ∧
  (∀ (w : CmdWord) (j : Instr), w &&& (matchMask j).2 = (matchMask j).1 →
    ∃ i, decode w = .ok i ∧ matchMask i = matchMask j) ∧
  (∀ w : CmdWord, (∃ e, decode w = .error e) ↔ ∀ j : Instr, w &&& (matchMask j).2 ≠ (matchMask j).1)

/-- R86: the worked encodings. -/
def Obligations.WorkedEncodings : Prop :=
  decode 0x00000000 = .ok .nop ∧ decode 0x0F000000 = .ok .zeroize ∧ decode 0x10010010 = .ok (.csched true 16) ∧
  decode 0x10000010 = .ok (.csched false 16) ∧ decode 0x12000038 = .ok (.cblock 56) ∧
  decode 0x20000080 = .ok (.kgen 128) ∧ decode 0x24000001 = .ok (.kdec 1) ∧ decode 0x36000000 = .ok .everify ∧
  decode 0x13000000 = .error .unassignedOpcode ∧ decode 0x11000001 = .error .reservedBitSet ∧
  decode 0x12010000 = .error .reservedBitSet ∧ decode 0x10020010 = .error .reservedBitSet

/-! ### Steps, issue and completion (spec/70_reset_and_hazards.md) -/

/-- R253: with a command in flight, the CORE's turn (its own, or while the host waits, or when nobody else has one) is exec of
the decoded latch; and a placed word is run by the very next step. R62, R63, R67: a host turn is its access at the port, taken
whole; a wait is over when `DONE` reads 1; a RAND directive's values come after the ready ones (log entry 24). -/
def Obligations.StepRunsTheDecodedCommand : Prop :=
  (∀ (s : State) (i : Instr) (rest : List Turn), s.status.busy = true → decode s.cmdl = .ok i →
    s.agenda = .core :: rest → step s = exec i { s with agenda := rest }) ∧
  (∀ (s : State) (i : Instr), s.status.busy = true → decode s.cmdl = .ok i → s.agenda = [] → step s = exec i s) ∧
  (∀ (s : State) (i : Instr) (rest : List Turn), s.status.busy = true → s.status.done = false →
    decode s.cmdl = .ok i → s.agenda = .wait :: rest → step s = exec i s) ∧
  (∀ (s : State) (i : Instr), i.wellFormed = true →
    step (s.withFetchWord 32 (encode i).toNat) = exec i (issue (encode i) s)) ∧
  (∀ (s : State) (sel : BitVec 8) (idx : BitVec 16) (rest : List Turn), s.agenda = .read sel idx :: rest →
    step s = .next (hostRead sel idx { s with agenda := rest })) ∧
  (∀ (s : State) (sel : BitVec 8) (idx : BitVec 16) (v : BitVec 256) (rest : List Turn),
    s.agenda = .write sel idx v :: rest → step s = .next (hostWrite sel idx v { s with agenda := rest })) ∧
  (∀ (s : State) (vs : List Nat) (rest : List Turn), s.agenda = .rand vs :: rest →
    step s = .next { s with agenda := rest, src := { s.src with rand := s.src.rand ++ vs } }) ∧
  (∀ (s : State) (rest : List Turn), s.agenda = .wait :: rest → s.status.done = true →
    step s = .next { hostRead 0x02 0 s with agenda := rest })

/-- R83, R220: an illegal word in flight completes with `IllegalCommand` (code 0x01) and changes no other state. -/
def Obligations.IllegalWordCompletes : Prop :=
  ∀ (s : State) (e : DecodeError) (rest : List Turn), s.status.busy = true → decode s.cmdl = .error e →
    (s.agenda = [] → step s = .next (failState s 0x01)) ∧
    (s.agenda = .core :: rest → step s = .next (failState { s with agenda := rest } 0x01)) ∧
    (s.agenda = .wait :: rest → s.status.done = false → step s = .next (failState s 0x01))

/-- R253, R229: the CORE has no step while idle: it holds its state. -/
def Obligations.IdleCoreHoldsState : Prop :=
  ∀ (s : State) (rest : List Turn), s.status.busy = false →
    (s.agenda = [] → step s = .next s) ∧ (s.agenda = .core :: rest → step s = .next { s with agenda := rest })

/-- R253, R22: a host write of any word to `CMD` while idle issues it, in one step; the sticky bits and the valid flags are
not touched, and `CMD` reads the word back, also while busy. -/
def Obligations.IssueLatchesAnyWord : Prop :=
  ∀ (s : State) (w : CmdWord) (rest : List Turn), s.status.busy = false →
    s.agenda = .write 0x01 0 (w.setWidth 256) :: rest →
    ∃ t, step s = .next t ∧
      t = { s with
        agenda := rest
        cmd := w
        cmdl := w
        status := { s.status with busy := true, done := false, err := false, errcode := 0 } } ∧
      (hostRead 0x01 0 t).rdata = w.setWidth 256

/-! ### The host port (spec/20_memory.md) -/

/-- R64: a host write while busy changes nothing but sets `WBUSY`; a bad one sets `BADACC` as well (R66). -/
def Obligations.WriteWhileBusyIsDropped : Prop :=
  ∀ (s : State) (sel : BitVec 8) (idx : BitVec 16) (v : BitVec 256), s.status.busy = true →
    (badWrite s.cfg sel idx = false →
      hostWrite sel idx v s = { s with status := { s.status with wbusy := true } }) ∧
    (badWrite s.cfg sel idx = true →
      hostWrite sel idx v s = { s with status := { s.status with wbusy := true, badacc := true } })

/-- R65: while busy `ID`, `CMD`, `STATUS`, `CTRL` read exactly, any other register answers some value of its width, and nothing
changes but the model's own `rdata` and the counter of free values. -/
def Obligations.ReadsWhileBusy : Prop :=
  ∀ s : State, s.status.busy = true →
    hostRead 0x00 0 s = { s with rdata := 0x43503037 } ∧
    hostRead 0x01 0 s = { s with rdata := s.cmd.setWidth 256 } ∧
    hostRead 0x02 0 s = { s with rdata := s.status.word.setWidth 256 } ∧
    hostRead 0x03 0 s = { s with rdata := if s.ie then 1 else 0 } ∧
    ∀ (sel : BitVec 8) (idx : BitVec 16) (r : Reg), locate s.cfg sel idx = some r →
      r ∉ [Reg.id, Reg.cmd, Reg.status, Reg.ctrl] →
      (hostRead sel idx s).rdata.toNat < 2 ^ width r ∧
      hostRead sel idx s =
        { s with
          rdata := (hostRead sel idx s).rdata
          src := { s.src with fresh := (hostRead sel idx s).src.fresh } }

/-- R66: a bad access (undefined select, index beyond the last element, or a write of a read-only register): the write is
dropped, the read answers 0, `BADACC` is set, and a bad write while busy sets `WBUSY` too. -/
def Obligations.BadAccessIsDropped : Prop :=
  ∀ (s : State) (sel : BitVec 8) (idx : BitVec 16) (v : BitVec 256),
    ((regOf sel = none ∨ ∃ r, regOf sel = some r ∧ elements s.cfg r ≤ idx.toNat) →
      hostRead sel idx s = { s with rdata := 0, status := { s.status with badacc := true } }) ∧
    ((regOf sel = none ∨ (∃ r, regOf sel = some r ∧ elements s.cfg r ≤ idx.toNat) ∨
        ∃ r ∈ [Reg.id, Reg.sk, Reg.kinv, Reg.erx, Reg.ery, Reg.einv], regOf sel = some r) →
      hostWrite sel idx v s =
        { s with status := { s.status with badacc := true, wbusy := s.status.wbusy || s.status.busy } })

/-- R62, R63: while idle, a good read answers a value of the register's width and changes nothing but the model's own `rdata`; a
register or element written reads back as the value written, at its width, and every other register and element reads as
before, but `STATUS` after a write of `KEY`. The select map is R20's, each write sets the field of its register and each read shows
it. (`CMD`, `STATUS`, `CTRL`, `EFLAGS` have rules of their own.) A value wider than the register is cut to
its width by the model's choice, log entry 9. -/
def Obligations.WrittenRegisterReadsBack : Prop :=
  ∀ s : State, s.status.busy = false →
    IsSelectMap s.cfg ∧ WritesSetTheirFields s ∧ ReadsShowTheirFields s ∧
    (∀ (sel : BitVec 8) (idx : BitVec 16) (r : Reg), locate s.cfg sel idx = some r →
      (hostRead sel idx s).rdata.toNat < 2 ^ width r ∧
      hostRead sel idx s = { s with rdata := (hostRead sel idx s).rdata }) ∧
    ∀ (sel : BitVec 8) (idx : BitVec 16) (v : BitVec 256) (r : Reg),
      Memory.wf s.dbuf = true → locate s.cfg sel idx = some r → readOnly r = false →
      r ∉ [Reg.cmd, Reg.status, Reg.ctrl, Reg.eflags] →
      (hostRead sel idx (hostWrite sel idx v s)).rdata = BitVec.ofNat 256 (v.toNat % 2 ^ width r) ∧
      ∀ (sel' : BitVec 8) (idx' : BitVec 16) (r' : Reg), locate s.cfg sel' idx' = some r' →
        (r' = Reg.status → r ≠ Reg.key) → (sel', idx') ≠ (sel, idx) →
        (hostRead sel' idx' (hostWrite sel idx v s)).rdata = (hostRead sel' idx' s).rdata

/-- R25: a host write of `KEY` while idle sets `KEYV` and touches neither `SK` nor `SKV` nor `SKDIR`. -/
def Obligations.KeyWriteSetsKeyv : Prop :=
  ∀ (s : State) (k : BitVec 128), s.status.busy = false →
    hostWrite 0x10 0 (k.setWidth 256) s = { s with key := k, status := { s.status with keyv := true } }

/-- R23: at the port, busy or idle, `STATUS` reads each field at its place and 0 in bit 7 and bits 31:19; an idle host write
clears exactly the W1C bits (1, 16, 17, 18) written as 1 and changes nothing else. -/
def Obligations.StatusLayoutAndWriteOneClear : Prop :=
  (∀ s : State, ∃ w : CmdWord, (hostRead 0x02 0 s).rdata = w.setWidth 256 ∧ w = s.status.word ∧
    w.getLsbD 0 = s.status.busy ∧ w.getLsbD 1 = s.status.done ∧ w.getLsbD 2 = s.status.err ∧
    w.getLsbD 3 = s.status.keyv ∧ w.getLsbD 4 = s.status.skv ∧ w.getLsbD 5 = s.status.skdir ∧
    w.getLsbD 6 = s.status.vok ∧ w.extractLsb' 8 8 = s.status.errcode ∧ w.getLsbD 16 = s.status.serr ∧
    w.getLsbD 17 = s.status.wbusy ∧ w.getLsbD 18 = s.status.badacc ∧ w &&& 0xFFF80080 = 0) ∧
  ∀ (s : State) (v : CmdWord), s.status.busy = false →
    hostWrite 0x02 0 (v.setWidth 256) s =
      { s with
        status := { s.status with
          done := s.status.done && !v.getLsbD 1
          serr := s.status.serr && !v.getLsbD 16
          wbusy := s.status.wbusy && !v.getLsbD 17
          badacc := s.status.badacc && !v.getLsbD 18 } } ∧
    (hostRead 0x02 0 (hostWrite 0x02 0 (v.setWidth 256) s)).rdata =
      (hostRead 0x02 0 s).rdata &&& ~~~((v &&& 0x00070002).setWidth 256)

/-- R24, R33, R63: an idle write of `CTRL` changes only `IE`, to bit 0; one of `EFLAGS` only `PINF` and `QINF`, to bits 0 and 1;
`RINF` and the reserved bits ignore the write, and no `BADACC` is set. -/
def Obligations.CtrlAndEflagsWrites : Prop :=
  ∀ (s : State) (v : CmdWord) (f : BitVec 8), s.status.busy = false →
    hostWrite 0x03 0 (v.setWidth 256) s = { s with ie := v.getLsbD 0 } ∧
    (hostRead 0x03 0 (hostWrite 0x03 0 (v.setWidth 256) s)).rdata = (v &&& 1).setWidth 256 ∧
    hostWrite 0x39 0 (f.setWidth 256) s = { s with ec := { s.ec with pinf := f.getLsbD 0, qinf := f.getLsbD 1 } } ∧
    (hostRead 0x39 0 (hostWrite 0x39 0 (f.setWidth 256) s)).rdata =
      ((f &&& 3) ||| (if s.ec.rinf then 4 else 0)).setWidth 256

/-- R224: after a completion `irq` is `IE`; at issue it falls; a write of 1 to `DONE` drops it. -/
def Obligations.InterruptFollowsDone : Prop :=
  (∀ (i : Instr) (s t : State), exec i s = .next t → irq t = s.ie) ∧
  (∀ (s : State) (w : CmdWord), irq (issue w s) = false) ∧
  (∀ (s : State), s.status.busy = false → irq (hostWrite 0x02 0 0x00000002 s) = false)

/-! ### Reset -/

/-- R37, R250: after reset every register, element and flag reads 0, except `ID`, and `irq` is low, whatever was in
flight. -/
def Obligations.ResetReadsZero : Prop :=
  ∀ (s : State) (rest : List Turn), s.agenda = .reset :: rest →
    ∃ t, step s = .next t ∧ t.cfg = s.cfg ∧ t.agenda = rest ∧ irq t = false ∧
      ∀ (sel : BitVec 8) (idx : BitVec 16) (r : Reg), locate s.cfg sel idx = some r →
        (hostRead sel idx t).rdata = if r = Reg.id then 0x43503037 else 0

/-- R251: the commands straight after reset, for every legal configuration. -/
def Obligations.FirstCommandAfterReset : Prop :=
  ∀ cfg : Config, cfg.wf = true → ∀ s : State, s = { State.reset with cfg := cfg } →
  (∀ i ∈ [Instr.nop, .zeroize, .eldg, .ekeygen, .everify, .epadd, .epmul],
    ∃ t, exec i s = .next t ∧ t.status.err = false) ∧
  (∀ n ∈ [8, 16, 24, 32, 40, 48, 56, 64, 72, 80, 88, 96, 104, 112, 120, 128],
    ∃ t, exec (.kgen n) s = .next t ∧ t.status.err = false) ∧
  (∃ t, exec .everify s = .next t ∧ t.status.vok = false) ∧
  (∀ i ∈ [Instr.epadd, .epmul], ∃ t, exec i s = .next t ∧ t.ec.rinf = true) ∧
  exec (.csched true 16) s = .next (failState s 0x03) ∧
  exec .csinv s = .next (failState s 0x04) ∧
  (∀ off, off + 8 ≤ cfg.dbufBytes → exec (.cblock off) s = .next (failState s 0x04)) ∧
  (∀ i ∈ [Instr.kpub, .kenc 0, .kdec 0, .kminv, .esign], exec i s = .next (failState s 0x07)) ∧
  (∀ len, len ≠ 0 → exec (.kenc len) s = .next (failState s 0x06) ∧ exec (.kdec len) s = .next (failState s 0x06)) ∧
  exec .esinv s = .next (failState s 0x08)

/-! ### Completion and errors (spec/60_exceptions.md) -/

/-- R220: a command that ends in a next state ends in one of two ways: a success, with `ERR`, `ERRCODE` 0 and `SERR` kept, or
an error completion, which changes nothing but the five fields of `STATUS`. -/
def Obligations.CompletionIsPrecise : Prop :=
  ∀ (i : Instr) (s t : State), exec i s = .next t →
    (t.status.err = false ∧ t.status.errcode = 0 ∧ t.status.busy = false ∧ t.status.done = true ∧
      t.status.serr = s.status.serr) ∨
    (∃ e : CmdError, t = failState s (errorCode e))

/-- R258, R257: every command ends in a next state in every state, but for `ESIGN` with an `ED` in range where no ephemeral
scalar of `[1, n-1]` is acceptable. -/
def Obligations.EveryCommandCompletes : Prop :=
  ∀ (i : Instr) (s : State), (∃ t, exec i s = .next t) ∨
    (i = .esign ∧ inScalarRange s.cfg.curve s.ec.ed = true ∧ exec i s = .fault .resampleForever ∧
      ∀ k, 1 ≤ k → k ≤ s.cfg.curve.n - 1 → signWith s k = none)

/-- R221: `NOP`, `ZEROIZE`, `ELDG`, `EKEYGEN` and `EVERIFY` never fail. -/
def Obligations.CommandsThatNeverFail : Prop :=
  ∀ (i : Instr) (s : State), i ∈ [Instr.nop, .zeroize, .eldg, .ekeygen, .everify] →
    ∃ t, exec i s = .next t ∧ t.status.err = false ∧ t.status.errcode = 0 ∧ t.status.done = true

/-- R223: the errors of the cipher commands, in the order of their checks. -/
def Obligations.CipherErrorsInOrder : Prop :=
  ∀ (s : State) (e : Bool) (imm : Nat),
    (imm ≠ 16 → exec (.csched e imm) s = .next (failState s 0x02)) ∧
    (imm = 16 → s.status.keyv = false → exec (.csched e imm) s = .next (failState s 0x03)) ∧
    (s.status.skv = false → exec .csinv s = .next (failState s 0x04)) ∧
    (s.cfg.dbufBytes < imm + 8 → exec (.cblock imm) s = .next (failState s 0x05)) ∧
    (imm + 8 ≤ s.cfg.dbufBytes → s.status.skv = false → exec (.cblock imm) s = .next (failState s 0x04))

/-- R223: the errors of the knapsack commands, in the order of their checks. -/
def Obligations.KnapsackErrorsInOrder : Prop :=
  ∀ (s : State) (imm : Nat) (legal inRange : Prop),
    (legal ↔ s.knap.klen.toNat ∈ [8, 16, 24, 32, 40, 48, 56, 64, 72, 80, 88, 96, 104, 112, 120, 128]) →
    (inRange ↔ 2 ≤ s.knap.ka.toNat ∧ s.knap.ka.toNat < s.knap.km.toNat) →
    (imm ∉ [8, 16, 24, 32, 40, 48, 56, 64, 72, 80, 88, 96, 104, 112, 120, 128] →
      exec (.kgen imm) s = .next (failState s 0x07)) ∧
    (¬ (legal ∧ inRange) → exec .kpub s = .next (failState s 0x07)) ∧
    (¬ inRange → exec .kminv s = .next (failState s 0x07)) ∧
    (inRange → Nat.gcd s.knap.ka.toNat s.knap.km.toNat ≠ 1 → exec .kminv s = .next (failState s 0x08)) ∧
    (8 * imm ≠ s.knap.klen.toNat →
      exec (.kenc imm) s = .next (failState s 0x06) ∧ exec (.kdec imm) s = .next (failState s 0x06)) ∧
    (8 * imm = s.knap.klen.toNat → ¬ legal →
      exec (.kenc imm) s = .next (failState s 0x07) ∧ exec (.kdec imm) s = .next (failState s 0x07)) ∧
    (8 * imm = s.knap.klen.toNat → legal → ¬ inRange → exec (.kdec imm) s = .next (failState s 0x07)) ∧
    (8 * imm = s.knap.klen.toNat → legal → inRange → Nat.gcd s.knap.ka.toNat s.knap.km.toNat ≠ 1 →
      exec (.kdec imm) s = .next (failState s 0x08))

/-- R223: the errors of the curve commands. (A division by zero in `ScalarMul` needs a field that is not prime: see
`EpmulCompletesOffCurve`, and log entry 11.) -/
def Obligations.CurveErrorsInOrder : Prop :=
  ∀ (s : State),
    (s.ec.pinf = false → (s.cfg.curve.p ≤ s.ec.epx.toNat ∨ s.cfg.curve.p ≤ s.ec.epy.toNat) →
      exec .epadd s = .next (failState s 0x07) ∧ exec .epmul s = .next (failState s 0x07)) ∧
    (s.ec.qinf = false → (s.cfg.curve.p ≤ s.ec.eqx.toNat ∨ s.cfg.curve.p ≤ s.ec.eqy.toNat) →
      exec .epadd s = .next (failState s 0x07)) ∧
    (ZeroDivisor s.cfg.curve (pointP s.ec) (pointQ s.ec) → exec .epadd s = .next (failState s 0x07)) ∧
    (scalarMul s.cfg.curve s.ec.ek.toNat (pointP s.ec) = none → exec .epmul s = .next (failState s 0x07)) ∧
    (Nat.gcd (s.ec.ek.toNat % s.cfg.curve.n) s.cfg.curve.n ≠ 1 → exec .esinv s = .next (failState s 0x08)) ∧
    ((s.ec.ed.toNat = 0 ∨ s.cfg.curve.n ≤ s.ec.ed.toNat) → exec .esign s = .next (failState s 0x07))

/-! ### The whole machine -/

/-- Every step keeps the invariant: the buffer's canonical form and bounds, the latch, the completion bits and codes, the
valid flags, the infinite result (R23, R26, R27, R32, R36, R220, R253). -/
def Obligations.StepKeepsInvariant : Prop :=
  ∀ s t : State, Inv s = true → step s = .next t → Inv t = true

/-- The invariant holds after reset. -/
def Obligations.ResetMeetsInvariant : Prop := Inv State.reset = true

/-- R39: no step changes the parameters. -/
def Obligations.StepKeepsConfiguration : Prop :=
  ∀ s t : State, step s = .next t → t.cfg = s.cfg

/-- R220, R256: only `KGEN`, `EKEYGEN` and `ESIGN` draw, and never when they fail. -/
def Obligations.OnlySuccessfulGeneratorsDraw : Prop :=
  ∀ (i : Instr) (s t : State), exec i s = .next t → t.src ≠ s.src →
    t.status.err = false ∧ (i = .ekeygen ∨ i = .esign ∨ ∃ n, i = .kgen n)

/-- R38: the writers of each register and flag; and `CTRL`, `CMD`, `WBUSY`, `BADACC` have none among the commands. -/
def Obligations.WritersOfEachRegister : Prop :=
  ∀ (i : Instr) (s t : State), exec i s = .next t →
    HostSideKept s t ∧
    (i ≠ .zeroize →
      t.key = s.key ∧ t.status.keyv = s.status.keyv ∧ t.ec.ee = s.ec.ee ∧ t.ec.ek = s.ec.ek ∧
      ((∀ e n, i ≠ .csched e n) → t.status.skv = s.status.skv) ∧
      ((∀ e n, i ≠ .csched e n) → i ≠ .csinv → t.sk = s.sk ∧ t.status.skdir = s.status.skdir) ∧
      ((∀ n, i ≠ .cblock n) → t.dbuf = s.dbuf) ∧
      ((∀ n, i ≠ .kgen n) → t.knap.klen = s.knap.klen ∧ t.knap.kw = s.knap.kw ∧ t.knap.km = s.knap.km ∧
        t.knap.ka = s.knap.ka) ∧
      ((∀ n, i ≠ .kgen n) → i ≠ .kpub → t.knap.kb = s.knap.kb) ∧
      ((∀ n, i ≠ .kgen n) → i ≠ .kminv → (∀ n, i ≠ .kdec n) → t.knap.kinv = s.knap.kinv) ∧
      ((∀ n, i ≠ .kenc n) → t.knap.kc = s.knap.kc) ∧ ((∀ n, i ≠ .kdec n) → t.knap.kkey = s.knap.kkey) ∧
      (i ≠ .eldg → t.ec.epx = s.ec.epx ∧ t.ec.epy = s.ec.epy ∧ t.ec.pinf = s.ec.pinf) ∧
      (i ≠ .epadd → i ≠ .epmul → t.ec.erx = s.ec.erx ∧ t.ec.ery = s.ec.ery ∧ t.ec.rinf = s.ec.rinf) ∧
      (i ≠ .esinv → t.ec.einv = s.ec.einv) ∧
      (i ≠ .ekeygen → t.ec.ed = s.ec.ed ∧ t.ec.eqx = s.ec.eqx ∧ t.ec.eqy = s.ec.eqy ∧ t.ec.qinf = s.ec.qinf) ∧
      (i ≠ .esign → t.ec.er = s.ec.er ∧ t.ec.es = s.ec.es) ∧ (i ≠ .everify → t.status.vok = s.status.vok))

/-! ### Control (spec/44_control.md) -/

/-- R190: `NOP` completes and changes nothing but the completion bits. -/
def Obligations.NopCompletes : Prop :=
  ∀ s : State, exec .nop s = .next { s with status := doneStatus s.status }

/-- R191: `ZEROIZE` completes; every register and element but `ID`, `CMD`, `STATUS`, `CTRL` then reads 0, the flags `KEYV`, `SKV`,
`SKDIR`, `VOK` are 0, the sticky bits, `CTRL` and `CMD` are kept, and until `KEY` is written again `CBLOCK` raises `NoSchedule` and
`CSCHED` raises `NoKey`. -/
def Obligations.ZeroizeCompletes : Prop :=
  ∀ s : State, ∃ t, exec .zeroize s = .next t ∧ HostSideKept s t ∧ t.src = s.src ∧
    t.status = { busy := false, done := true, err := false, keyv := false, skv := false, skdir := false, vok := false,
                 errcode := 0, serr := s.status.serr, wbusy := s.status.wbusy, badacc := s.status.badacc } ∧
    (∀ (sel : BitVec 8) (idx : BitVec 16) (r : Reg), locate s.cfg sel idx = some r →
      r ∉ [Reg.id, Reg.cmd, Reg.status, Reg.ctrl] → (hostRead sel idx t).rdata = 0) ∧
    (∀ off, off + 8 ≤ s.cfg.dbufBytes → exec (.cblock off) t = .next (failState t 0x04)) ∧
    (∀ e, exec (.csched e 16) t = .next (failState t 0x03))

/-! ### The cipher (spec/40_cipher_schedule.md, spec/41_cipher_block.md) -/

/-- R101: the value of `Mul16`, its corner cases, and that it is commutative and a bijection for a fixed operand. -/
def Obligations.MulModulo65537 : Prop :=
  (∀ a b : Word16, (mul16 a b).toNat =
    (if a = 0 then 65536 else a.toNat) * (if b = 0 then 65536 else b.toNat) % 65537 % 65536) ∧
  (∀ a b : Word16, mul16 a b = mul16 b a) ∧
  (∀ b : Word16, Function.Bijective fun a => mul16 a b) ∧
  (∀ b : Word16, mul16 1 b = b) ∧
  (∀ b : Word16, b ≠ 0 → (mul16 0 b).toNat = (65537 - b.toNat) % 65536) ∧
  mul16 0 0 = 1 ∧ mul16 0xFFFF 0xFFFF = 4 ∧ mul16 0x8000 2 = 0 ∧ mul16 0x8000 0x8000 = 0xC001

/-- R102, R103: the subkey inverses. -/
def Obligations.SubkeyInverses : Prop :=
  (∀ a : Word16, (addInv16 a).toNat = (65536 - a.toNat) % 65536 ∧ add16 a (addInv16 a) = 0) ∧
  (∀ a : Word16, mul16 a (mulInv16 a) = 1 ∧ mulInv16 (mulInv16 a) = a) ∧
  (∀ x a : Word16, mul16 (mul16 x a) (mulInv16 a) = x) ∧
  (∀ a : Word16, ∃ x, (1 ≤ x ∧ x ≤ 65536 ∧ (if a = 0 then 65536 else a.toNat) * x % 65537 = 1) ∧
    (mulInv16 a).toNat = x % 65536 ∧
    ∀ y, 1 ≤ y → y ≤ 65536 → (if a = 0 then 65536 else a.toNat) * y % 65537 = 1 → y = x) ∧
  addInv16 0 = 0 ∧ addInv16 1 = 0xFFFF ∧ addInv16 0x8000 = 0x8000 ∧
  mulInv16 0 = 0 ∧ mulInv16 1 = 1 ∧ mulInv16 2 = 0x8001 ∧ mulInv16 3 = 0x5556 ∧ mulInv16 0xFFFF = 0x8000 ∧
  mulInv16 0x8000 = 0xFFFF

/-- R106: the word recurrence of the key schedule, and its first eight words (R104). -/
def Obligations.ScheduleRecurrence : Prop :=
  ∀ k : BitVec 128,
    (∀ i, i < 8 → subkey (keyExpand k) i = k.extractLsb' (112 - 16 * i) 16) ∧
    ∀ i, 8 ≤ i → i ≤ 51 →
      subkey (keyExpand k) i =
        (subkey (keyExpand k) (if (i + 1) % 8 ≠ 0 then i - 7 else i - 15) <<< 9) |||
        (subkey (keyExpand k) (if (i + 2) % 8 < 2 then i - 14 else i - 6) >>> 7)

/-- R108: inverting a schedule twice restores it, whatever it holds. -/
def Obligations.KeyInvertIsAnInvolution : Prop :=
  ∀ z : Vector Word16 52, keyInvert (keyInvert z) = z

/-- R109: `CSCHED` with a length of 16 and a written key completes: for `E = 1` with the schedule of `KEY` (R105), for `E = 0`
with what `CSCHED.E` and then `CSINV` leave; `SKV` is 1, `SKDIR` is `E`, and nothing else changes. -/
def Obligations.CschedCompletes : Prop :=
  ∀ (s : State) (e : Bool), s.status.keyv = true →
    ∃ t, exec (.csched e 16) s = .next t ∧
      t = { s with sk := t.sk, status := { doneStatus s.status with skv := true, skdir := e } } ∧
      (e = true → IsScheduleOf t.sk s.key) ∧
      (e = false → ∃ u v, exec (.csched true 16) s = .next u ∧ exec .csinv u = .next v ∧ v = t ∧
        IsScheduleOf u.sk s.key ∧ IsInverseSchedule u.sk t.sk)

/-- R110: `CSINV` with a schedule completes with the inverse schedule (R107), toggles `SKDIR`, changes nothing else, and a second
`CSINV` restores `SK` and `SKDIR`. -/
def Obligations.CsinvCompletes : Prop :=
  ∀ s : State, s.status.skv = true →
    ∃ t, exec .csinv s = .next t ∧
      t = { s with sk := t.sk, status := { doneStatus s.status with skdir := !s.status.skdir } } ∧
      IsInverseSchedule s.sk t.sk ∧
      ∃ u, exec .csinv t = .next u ∧ u.sk = s.sk ∧ u.status.skdir = s.status.skdir

/-- R123: `CBLOCK` at a legal offset with a schedule completes: the block at `off` is the transform of the block that was
there, every byte outside `off .. off+7` is as before, and nothing else changes. -/
def Obligations.CblockCompletes : Prop :=
  ∀ (s : State) (off : Nat), off + 8 ≤ s.cfg.dbufBytes → s.status.skv = true → Memory.wf s.dbuf = true →
    ∃ t, exec (.cblock off) s = .next t ∧
      t = { s with dbuf := t.dbuf, status := doneStatus s.status } ∧
      (∀ a, (a < off ∨ off + 8 ≤ a) → Memory.get t.dbuf a = Memory.get s.dbuf a) ∧
      loadBlock t.dbuf off = outputTransform (cipherRounds s.sk (loadBlock s.dbuf off) 8) s.sk ∧
      (∀ k, k < 4 → memRead t.dbuf (off + 2 * k) 2 =
        (Memory.get t.dbuf (off + 2 * k)).toNat * 256 + (Memory.get t.dbuf (off + 2 * k + 1)).toNat) ∧
      Memory.wf t.dbuf = true

/-- R124: the block transform is a bijection on the 64-bit block for every content of `SK`, and it is what `CBLOCK` leaves at
the block's place. -/
def Obligations.BlockTransformIsBijective : Prop :=
  (∀ sk : Vector Word16 52, Function.Bijective (cipherBlock sk)) ∧
  ∀ (s : State) (off : Nat), off + 8 ≤ s.cfg.dbufBytes → s.status.skv = true → Memory.wf s.dbuf = true →
    ∃ t, exec (.cblock off) s = .next t ∧ loadBlock t.dbuf off = cipherBlock s.sk (loadBlock s.dbuf off)

/-- R111: `CSCHED`, `CBLOCK`, `CSCHED` for the other direction, `CBLOCK` leaves every byte of `DBUF` as it was, for every key and
block, in either order. -/
def Obligations.EncryptThenDecryptRestores : Prop :=
  ∀ (s : State) (e : Bool) (off : Nat), s.status.keyv = true → off + 8 ≤ s.cfg.dbufBytes → Memory.wf s.dbuf = true →
    ∃ t1 t2 t3 t4, exec (.csched e 16) s = .next t1 ∧ exec (.cblock off) t1 = .next t2 ∧
      exec (.csched (!e) 16) t2 = .next t3 ∧ exec (.cblock off) t3 = .next t4 ∧
      t1.status.err = false ∧ t2.status.err = false ∧ t3.status.err = false ∧ t4.status.err = false ∧
      ∀ a, Memory.get t4.dbuf a = Memory.get s.dbuf a

/-! ### The knapsack (spec/42_knapsack.md) -/

/-- R142, R140: `KGEN` with a legal length completes, for every sequence of draws, with a key pair: each element in its span of
four, the modulus in `(S, 2S]`, the multiplier coprime to it, the elements beyond `n` zero, `KINV` zero; nothing else
changes but the random source. Values of their range that the source has ready are the draws, in the rule's order: element
`i` takes the `i`-th, the modulus the next, and the multiplier is the first one after those that is coprime to the modulus. -/
def Obligations.KgenMakesAKeyPair : Prop :=
  ∀ (s : State) (n : Nat), legalLength n = true →
    ∃ t, exec (.kgen n) s = .next t ∧
      t = { s with
        knap := { t.knap with kkey := s.knap.kkey, kc := s.knap.kc }
        src := t.src
        status := doneStatus s.status } ∧
      t.knap.klen.toNat = n ∧ IsKeyPair t.knap ∧ t.knap.kinv = 0 ∧
      t.knap.km.toNat ≤ 2 * ∑ j ∈ Finset.range n, privateElem t.knap j ∧
      (∀ i, i < n →
        max (2 ^ i) ((∑ j ∈ Finset.range i, privateElem t.knap j) + 1) ≤ privateElem t.knap i ∧
        privateElem t.knap i ≤ max (2 ^ i) ((∑ j ∈ Finset.range i, privateElem t.knap j) + 1) + 3) ∧
      (∀ i, n ≤ i → privateElem t.knap i = 0 ∧ publicElem t.knap i = 0) ∧
      (∀ i delta, i < n → s.src.rand[i]? = some delta → delta ≤ 3 →
        privateElem t.knap i = max (2 ^ i) ((∑ j ∈ Finset.range i, privateElem t.knap j) + 1) + delta) ∧
      (∀ extra, s.src.rand[n]? = some extra → extra ≤ (∑ j ∈ Finset.range n, privateElem t.knap j) - 1 →
        t.knap.km.toNat = (∑ j ∈ Finset.range n, privateElem t.knap j) + 1 + extra) ∧
      ∀ rejected a rest, s.src.rand.drop (n + 1) = rejected ++ a :: rest →
        (∀ b ∈ rejected, 2 ≤ b ∧ b ≤ t.knap.km.toNat - 1 ∧ Nat.gcd b t.knap.km.toNat ≠ 1) →
        2 ≤ a → a ≤ t.knap.km.toNat - 1 → Nat.gcd a t.knap.km.toNat = 1 →
        t.knap.ka.toNat = a ∧ t.src.rand = rest

/-- R143: `KPUB` with a legal length and a multiplier in range completes: `KB[i] = (KA * KW[i]) mod KM` below `KLEN`, the other
elements and everything else kept. -/
def Obligations.KpubCompletes : Prop :=
  ∀ s : State, legalLength s.knap.klen.toNat = true → 2 ≤ s.knap.ka.toNat → s.knap.ka.toNat < s.knap.km.toNat →
    ∃ t, exec .kpub s = .next t ∧
      t = { s with knap := { s.knap with kb := t.knap.kb }, status := doneStatus s.status } ∧
      (∀ i, i < s.knap.klen.toNat →
        publicElem t.knap i = s.knap.ka.toNat * privateElem s.knap i % s.knap.km.toNat) ∧
      ∀ i, s.knap.klen.toNat ≤ i → publicElem t.knap i = publicElem s.knap i

/-- R144, R16: `KMINV` with an invertible multiplier in range completes: `KINV` is its inverse, nothing else changes. -/
def Obligations.KminvCompletes : Prop :=
  ∀ s : State, 2 ≤ s.knap.ka.toNat → s.knap.ka.toNat < s.knap.km.toNat →
    Nat.gcd s.knap.ka.toNat s.knap.km.toNat = 1 →
    ∃ t, exec .kminv s = .next t ∧
      t = { s with knap := { s.knap with kinv := t.knap.kinv }, status := doneStatus s.status } ∧
      1 ≤ t.knap.kinv.toNat ∧ t.knap.kinv.toNat < s.knap.km.toNat ∧
      s.knap.ka.toNat * t.knap.kinv.toNat % s.knap.km.toNat = 1

/-- R145, R148: `KENC` with a matching legal length completes: `KC` is the plain integer sum of the elements the key bits
select, and nothing else changes. -/
def Obligations.KencCompletes : Prop :=
  ∀ (s : State) (imm : Nat), 8 * imm = s.knap.klen.toNat → legalLength s.knap.klen.toNat = true →
    ∃ t, exec (.kenc imm) s = .next t ∧
      t = { s with knap := { s.knap with kc := t.knap.kc }, status := doneStatus s.status } ∧
      t.knap.kc.toNat =
        ∑ j ∈ Finset.range s.knap.klen.toNat, if s.knap.kkey.getLsbD (127 - j) then publicElem s.knap j else 0

/-- R146: `KDEC` with a matching legal length and an invertible multiplier in range completes: `KINV` is the inverse, key bit
`j` is 1 iff what is left of `T = (KC * KINV) mod KM` after the larger elements taken is at least `KW[j]`, the bits below
`128 - KLEN` are 0, and nothing else changes. -/
def Obligations.KdecCompletes : Prop :=
  ∀ (s : State) (imm : Nat), 8 * imm = s.knap.klen.toNat → legalLength s.knap.klen.toNat = true →
    2 ≤ s.knap.ka.toNat → s.knap.ka.toNat < s.knap.km.toNat → Nat.gcd s.knap.ka.toNat s.knap.km.toNat = 1 →
    ∃ t, exec (.kdec imm) s = .next t ∧
      t = { s with knap := { s.knap with kinv := t.knap.kinv, kkey := t.knap.kkey }, status := doneStatus s.status } ∧
      1 ≤ t.knap.kinv.toNat ∧ t.knap.kinv.toNat < s.knap.km.toNat ∧
      s.knap.ka.toNat * t.knap.kinv.toNat % s.knap.km.toNat = 1 ∧
      (∀ j, j < s.knap.klen.toNat →
        (t.knap.kkey.getLsbD (127 - j) = true ↔
          privateElem s.knap j +
            (∑ i ∈ Finset.Ico (j + 1) s.knap.klen.toNat,
              if t.knap.kkey.getLsbD (127 - i) then privateElem s.knap i else 0) ≤
            s.knap.kc.toNat * t.knap.kinv.toNat % s.knap.km.toNat)) ∧
      ∀ j, s.knap.klen.toNat ≤ j → j ≤ 127 → t.knap.kkey.getLsbD (127 - j) = false

/-- R147: with a key pair in the registers, `KENC` and then `KDEC` leave `KKEY` equal to the key, its low bits zero. -/
def Obligations.EncapsulateThenDecapsulate : Prop :=
  ∀ (s : State) (len : Nat), IsKeyPair s.knap → 8 * len = s.knap.klen.toNat →
    ∃ t u, exec (.kenc len) s = .next t ∧ t.status.err = false ∧ exec (.kdec len) t = .next u ∧ u.status.err = false ∧
      ∀ j, j ≤ 127 →
        u.knap.kkey.getLsbD (127 - j) = (decide (j < s.knap.klen.toNat) && s.knap.kkey.getLsbD (127 - j))

/-! ### The curve (spec/43_ec.md) -/

/-- R166: `ELDG` completes: `P` is the base point, nothing else changes. -/
def Obligations.EldgCompletes : Prop :=
  ∀ s : State, s.cfg.wf = true →
    ∃ t, exec .eldg s = .next t ∧
      t = { s with
        ec := { s.ec with epx := t.ec.epx, epy := t.ec.epy, pinf := false }
        status := doneStatus s.status } ∧
      t.ec.epx.toNat = s.cfg.curve.gx ∧ t.ec.epy.toNat = s.cfg.curve.gy

/-- R163: `PointAdd` by its cases: infinity is neutral; opposite points give infinity; else the third point of the line or
tangent; and it would divide by zero exactly where the rule says. -/
def Obligations.PointAddByCases : Prop :=
  ∀ c : Curve, Nat.Prime c.p → 3 < c.p →
    (∀ q : Point, pointAdd c .infinity q = some q ∧ pointAdd c q .infinity = some q) ∧
    ∀ x1 y1 x2 y2 : Nat, x1 < c.p → y1 < c.p → x2 < c.p → y2 < c.p →
      (x1 = x2 ∧ (y1 + y2) % c.p = 0 → pointAdd c (.affine x1 y1) (.affine x2 y2) = some .infinity) ∧
      (ZeroDivisor c (.affine x1 y1) (.affine x2 y2) ↔ pointAdd c (.affine x1 y1) (.affine x2 y2) = none) ∧
      (¬ (x1 = x2 ∧ (y1 + y2) % c.p = 0) → ¬ ZeroDivisor c (.affine x1 y1) (.affine x2 y2) →
        ∃ lam x3 y3, pointAdd c (.affine x1 y1) (.affine x2 y2) = some (.affine x3 y3) ∧
          IsSlope c x1 y1 x2 y2 lam ∧ IsThirdPoint c x1 y1 x2 lam x3 y3)

/-- R163: on the curve `PointAdd` never divides by zero, stays on the curve and is commutative. -/
def Obligations.PointAddStaysOnCurve : Prop :=
  ∀ (c : Curve) (p q : Point), Nat.Prime c.p → 3 < c.p → OnCurve c p → OnCurve c q →
    ∃ r, pointAdd c p q = some r ∧ OnCurve c r ∧ pointAdd c q p = some r

/-- R167: `EPADD` with legal operands and no zero divisor completes: `R` is `PointAdd(P, Q)`, infinity as `(0, 0, 1)`, nothing
else changes. -/
def Obligations.EpaddCompletes : Prop :=
  ∀ s : State, s.cfg.wf = true → Nat.Prime s.cfg.curve.p →
    (s.ec.pinf = true ∨ s.ec.epx.toNat < s.cfg.curve.p ∧ s.ec.epy.toNat < s.cfg.curve.p) →
    (s.ec.qinf = true ∨ s.ec.eqx.toNat < s.cfg.curve.p ∧ s.ec.eqy.toNat < s.cfg.curve.p) →
    ¬ ZeroDivisor s.cfg.curve (pointP s.ec) (pointQ s.ec) →
    ∃ t, exec .epadd s = .next t ∧
      t = { s with
        ec := { s.ec with erx := t.ec.erx, ery := t.ec.ery, rinf := t.ec.rinf }
        status := doneStatus s.status } ∧
      pointAdd s.cfg.curve (pointP s.ec) (pointQ s.ec) = some (pointOf t.ec.erx t.ec.ery t.ec.rinf) ∧
      (t.ec.rinf = true → t.ec.erx = 0 ∧ t.ec.ery = 0) ∧
      (t.ec.rinf = false → t.ec.erx.toNat < s.cfg.curve.p ∧ t.ec.ery.toNat < s.cfg.curve.p)

/-- R168: `EPMUL` with `P` on the curve completes for every `EK`: `R` is `ScalarMul(EK, P)` and on the curve, infinity as
`(0, 0, 1)`; for `EK = 0` or `P = O` it is infinity, for `EK = 1` it is `P`; nothing else changes. -/
def Obligations.EpmulCompletes : Prop :=
  ∀ s : State, s.cfg.wf = true → Nat.Prime s.cfg.curve.p → OnCurve s.cfg.curve (pointP s.ec) →
    ∃ t, exec .epmul s = .next t ∧
      t = { s with
        ec := { s.ec with erx := t.ec.erx, ery := t.ec.ery, rinf := t.ec.rinf }
        status := doneStatus s.status } ∧
      scalarMul s.cfg.curve s.ec.ek.toNat (pointP s.ec) = some (pointOf t.ec.erx t.ec.ery t.ec.rinf) ∧
      OnCurve s.cfg.curve (pointOf t.ec.erx t.ec.ery t.ec.rinf) ∧
      (t.ec.rinf = true → t.ec.erx = 0 ∧ t.ec.ery = 0) ∧
      (s.ec.ek = 0 ∨ s.ec.pinf = true → t.ec.rinf = true) ∧
      (s.ec.ek = 1 → pointOf t.ec.erx t.ec.ery t.ec.rinf = pointP s.ec)

/-- R168: off the curve too: over a prime field `EPMUL` with a legal operand completes for every `EK`, since the multiples of one
pair of coordinates never divide by zero; `R` is `ScalarMul(EK, P)`, nothing else changes. -/
def Obligations.EpmulCompletesOffCurve : Prop :=
  ∀ s : State, s.cfg.wf = true → Nat.Prime s.cfg.curve.p →
    (s.ec.pinf = true ∨ s.ec.epx.toNat < s.cfg.curve.p ∧ s.ec.epy.toNat < s.cfg.curve.p) →
    ∃ t, exec .epmul s = .next t ∧
      t = { s with
        ec := { s.ec with erx := t.ec.erx, ery := t.ec.ery, rinf := t.ec.rinf }
        status := doneStatus s.status } ∧
      scalarMul s.cfg.curve s.ec.ek.toNat (pointP s.ec) = some (pointOf t.ec.erx t.ec.ery t.ec.rinf)

/-- R164: on the curve `ScalarMul` is the multiple in the group: one more is one addition more, and 0 is infinity. -/
def Obligations.ScalarMulIsTheMultiple : Prop :=
  ∀ (c : Curve) (p : Point), Nat.Prime c.p → c.wf = true → OnCurve c p →
    scalarMul c 0 p = some .infinity ∧
    ∀ k, k + 1 < 2 ^ 192 → ∃ r r', scalarMul c k p = some r ∧ pointAdd c r p = some r' ∧ scalarMul c (k + 1) p = some r'

/-- R169: `ESINV` completes where `EK mod n` is coprime to `n`: `EINV` is its inverse; for a prime `n` that is every `EK` that is
no multiple of `n`; nothing else changes. -/
def Obligations.EsinvCompletes : Prop :=
  ∀ s : State, s.cfg.wf = true →
    (Nat.gcd (s.ec.ek.toNat % s.cfg.curve.n) s.cfg.curve.n = 1 ∨
      Nat.Prime s.cfg.curve.n ∧ s.ec.ek.toNat % s.cfg.curve.n ≠ 0) →
    ∃ t, exec .esinv s = .next t ∧
      t = { s with ec := { s.ec with einv := t.ec.einv }, status := doneStatus s.status } ∧
      1 ≤ t.ec.einv.toNat ∧ t.ec.einv.toNat < s.cfg.curve.n ∧
      s.ec.ek.toNat % s.cfg.curve.n * t.ec.einv.toNat % s.cfg.curve.n = 1

/-- R170: `EKEYGEN` completes for every draw: `ED` is the draw, in `[1, n-1]`, and `Q = ScalarMul(d, G)`, on the curve and finite;
a value of the range that the random source has ready is the draw; nothing else changes but the source. -/
def Obligations.EkeygenCompletes : Prop :=
  ∀ s : State, s.cfg.wf = true → Curve.Legal s.cfg.curve →
    ∃ t, exec .ekeygen s = .next t ∧
      t = { s with
        ec := { s.ec with ed := t.ec.ed, eqx := t.ec.eqx, eqy := t.ec.eqy, qinf := false }
        src := t.src
        status := doneStatus s.status } ∧
      1 ≤ t.ec.ed.toNat ∧ t.ec.ed.toNat ≤ s.cfg.curve.n - 1 ∧
      scalarMul s.cfg.curve t.ec.ed.toNat (basePoint s.cfg.curve) = some (pointQ t.ec) ∧
      OnCurve s.cfg.curve (pointQ t.ec) ∧
      ∀ v vs, s.src.rand = v :: vs → 1 ≤ v → v ≤ s.cfg.curve.n - 1 → t.ec.ed.toNat = v ∧ t.src.rand = vs

/-- R172: `ESIGN` with `ED` in range, where some ephemeral scalar is acceptable, completes with the signature of an acceptable
`k`: `r` and `s` in `[1, n-1]`, `r` the x of `k G` modulo `n`, `s k = z + r d` modulo `n`; nothing else changes but the source. The first acceptable value that
the source has ready, after ready values of the range that are degenerate, is that `k`. -/
def Obligations.EsignCompletes : Prop :=
  ∀ s : State, s.cfg.wf = true → Nat.Prime s.cfg.curve.n → 1 ≤ s.ec.ed.toNat → s.ec.ed.toNat ≤ s.cfg.curve.n - 1 →
    (∃ k, 1 ≤ k ∧ k ≤ s.cfg.curve.n - 1 ∧ signWith s k ≠ none) →
    ∃ t k x y, exec .esign s = .next t ∧
      t = { s with
        ec := { s.ec with er := t.ec.er, es := t.ec.es }
        src := t.src
        status := doneStatus s.status } ∧
      1 ≤ k ∧ k ≤ s.cfg.curve.n - 1 ∧
      scalarMul s.cfg.curve k (basePoint s.cfg.curve) = some (.affine x y) ∧ t.ec.er.toNat = x % s.cfg.curve.n ∧
      1 ≤ t.ec.er.toNat ∧ t.ec.er.toNat ≤ s.cfg.curve.n - 1 ∧ 1 ≤ t.ec.es.toNat ∧ t.ec.es.toNat ≤ s.cfg.curve.n - 1 ∧
      t.ec.es.toNat * k % s.cfg.curve.n =
        (s.ec.ee.toNat % s.cfg.curve.n + t.ec.er.toNat * s.ec.ed.toNat) % s.cfg.curve.n ∧
      ∀ rejected k' rest, s.src.rand = rejected ++ k' :: rest →
        (∀ b ∈ rejected, 1 ≤ b ∧ b ≤ s.cfg.curve.n - 1 ∧ signWith s b = none) →
        1 ≤ k' → k' ≤ s.cfg.curve.n - 1 → signWith s k' ≠ none → k = k' ∧ t.src.rand = rest

/-- R173: `EVERIFY` always completes and writes `VOK` alone: false for a scalar out of range or a `Q` that is no point; else true
iff the x of `u1 G + u2 Q` modulo `n` is `ER`, with `u1 = z w`, `u2 = r w` and `w` the inverse of `ES`, a division by zero or
an infinite sum being false. -/
def Obligations.EverifyCompletes : Prop :=
  ∀ s : State, s.cfg.wf = true → Nat.Prime s.cfg.curve.n →
    ∃ t, exec .everify s = .next t ∧ t = { s with status := { doneStatus s.status with vok := t.status.vok } } ∧
      ((s.ec.er.toNat = 0 ∨ s.cfg.curve.n ≤ s.ec.er.toNat ∨ s.ec.es.toNat = 0 ∨ s.cfg.curve.n ≤ s.ec.es.toNat ∨
          s.ec.qinf = true ∨ s.cfg.curve.p ≤ s.ec.eqx.toNat ∨ s.cfg.curve.p ≤ s.ec.eqy.toNat) →
        t.status.vok = false) ∧
      (0 < s.ec.er.toNat → s.ec.er.toNat < s.cfg.curve.n → 0 < s.ec.es.toNat → s.ec.es.toNat < s.cfg.curve.n →
        s.ec.qinf = false → s.ec.eqx.toNat < s.cfg.curve.p → s.ec.eqy.toNat < s.cfg.curve.p →
        ∃ w, w < s.cfg.curve.n ∧ s.ec.es.toNat * w % s.cfg.curve.n = 1 ∧
          (t.status.vok = true ↔ ∃ p1 p2 x y,
            scalarMul s.cfg.curve (s.ec.ee.toNat % s.cfg.curve.n * w % s.cfg.curve.n) (basePoint s.cfg.curve) = some p1 ∧
            scalarMul s.cfg.curve (s.ec.er.toNat * w % s.cfg.curve.n)
              (.affine s.ec.eqx.toNat s.ec.eqy.toNat) = some p2 ∧
            pointAdd s.cfg.curve p1 p2 = some (.affine x y) ∧ x % s.cfg.curve.n = s.ec.er.toNat))

/-- R174: on a legal curve, a signature made with `ED = d` verifies under `Q = ScalarMul(d, G)` with the same `EE`, for every
draw. -/
def Obligations.SignThenVerify : Prop :=
  ∀ s t : State, Curve.Legal s.cfg.curve → 1 ≤ s.ec.ed.toNat → s.ec.ed.toNat ≤ s.cfg.curve.n - 1 →
    s.ec.qinf = false →
    scalarMul s.cfg.curve s.ec.ed.toNat (basePoint s.cfg.curve) = some (pointQ s.ec) →
    exec .esign s = .next t →
    ∃ u, exec .everify t = .next u ∧ u.status.vok = true ∧ u.status.err = false

/-! ### Host software (spec/45_host_sequences.md) -/

/-- R201: `Fold(pass, L)` has length `L`, and its byte `i` is the XOR of the passphrase's bytes at the positions congruent to `i`
modulo `L`. -/
def Obligations.FoldXorsByResidue : Prop :=
  ∀ (pass : List Byte) (len : Nat), 0 < len →
    (fold pass len).length = len ∧
    ∀ i, i < len → (fold pass len).getD i 0 =
      (((List.range pass.length).filter fun j => j % len = i).map fun j => pass.getD j 0).foldl (· ^^^ ·) 0

/-- R207, R208, R209: padding makes a window a multiple of 8 by at most seven zero bytes, and stripping takes them off again
from one that does not end in a zero byte. -/
def Obligations.StripUndoesPadding : Prop :=
  ∀ win : List Byte,
    (padWindow win).length % 8 = 0 ∧ (padWindow win).length < win.length + 8 ∧ (∃ z, padWindow win = win ++ z ∧ ∀ b ∈ z, b = 0) ∧
    (win.getLast? ≠ some 0 → stripZeros (padWindow win) = win)
end

