-- ==== Sys2Proof/Laws/HostSoftware.lean ====
section
/-! SUPPORT. What the host software's shared operations can answer: running a checked command, a window's blocks, the refusals
of parameters that spec/00_scope.md R8 excludes. -/

namespace Sys2Proof.Machine

/-- A checked command that goes through was completed by the CORE without error. -/
theorem runChecked_ok {i : Instr} {s t : State} (h : runChecked i s = .ok t) :
    coreTurn (hostWrite (selOf .cmd) 0 ((encode i).setWidth 256) s) = .next t ∧ t.status.err = false := by
  simp only [runChecked] at h
  split at h
  · next u hu =>
    simp only [checkError] at h
    split at h
    · cases h
    · next he =>
      cases h
      exact ⟨hu, Bool.eq_false_of_not_eq_true he⟩
  · cases h

/-- A checked command that aborts with a CORE error leaves the CORE with that completion. -/
theorem runChecked_coreError {i : Instr} {s c : State} {code : BitVec 8}
    (h : runChecked i s = .error { error := .coreError code, core := c }) :
    coreTurn (hostWrite (selOf .cmd) 0 ((encode i).setWidth 256) s) = .next c ∧ c.status.err = true ∧
      c.status.errcode = code := by
  simp only [runChecked] at h
  split at h
  · next u hu =>
    simp only [checkError] at h
    split at h
    · cases h
      exact ⟨hu, ‹_›, rfl⟩
    · cases h
  · cases h

/-- A window's blocks abort exactly at the first block that does, with the IV and the CORE of that point. -/
theorem processBlocks_cons (b : List Byte) (bs : List (List Byte)) (ss : Session) (s : State) :
    (∃ e, processBlock ss b s = .error e ∧
      processBlocks (b :: bs) ss s = { output := [], session := ss, core := e.core, failure := some e.error }) ∨
    (∃ o ss1 s1, processBlock ss b s = .ok (o, ss1, s1) ∧
      processBlocks (b :: bs) ss s =
        { processBlocks bs ss1 s1 with output := o ++ (processBlocks bs ss1 s1).output }) := by
  cases h : processBlock ss b s with
  | error e => exact .inl ⟨e, rfl, by simp [processBlocks, h]⟩
  | ok r => exact .inr ⟨r.1, r.2.1, r.2.2, rfl, by simp [processBlocks, h]⟩

theorem streamRun_refuses {hp : HostParams} (h : hp.wf = false) (faults : StreamFaults) (source : List Byte) (ss : Session)
    (s : State) :
    streamRun hp faults source ss s =
      { destination := [], progress := [], session := ss, core := s, failure := some .illegalParameter } := by
  simp [streamRun, h]

theorem writeDigest_refuses {hash : List Byte → List Byte} {message : List Byte} (h : digestFits (hash message) = false)
    (s : State) : writeDigest hash message s = .error { error := .illegalParameter, core := s } := by
  simp [writeDigest, h]

end Sys2Proof.Machine
end

