-- ==== Sys2Proof/Laws/Memory.lean ====
section
/-! SUPPORT. The laws of the block buffer: read after write, and that every operation keeps the canonical form. -/

namespace Sys2Proof.Machine

/-- An address below every listed one reads 0. -/
theorem Memory.get_eq_zero_of_lt (m : Memory) (a : Nat) (h : m.all (fun c => decide (a < c.1)) = true) :
    Memory.get m a = 0#8 := by
  induction m with
  | nil => rfl
  | cons c m ih =>
    obtain ⟨k, v⟩ := c
    simp only [List.all_cons, Bool.and_eq_true, decide_eq_true_eq] at h
    simp only [Memory.get]
    rw [if_neg (by omega)]
    exact ih h.2

/-- What `wf` says of a list with a head. -/
theorem Memory.wf_cons (k : Nat) (v : Byte) (m : Memory) :
    Memory.wf ((k, v) :: m) = true ↔ v ≠ 0#8 ∧ m.all (fun c => decide (k < c.1)) = true ∧ Memory.wf m = true := by
  simp [Memory.wf, and_assoc]

/-- A byte written is the byte read. -/
theorem Memory.get_set_same (m : Memory) (a : Nat) (v : Byte) (h : Memory.wf m = true) :
    Memory.get (Memory.set m a v) a = v := by
  induction m with
  | nil => by_cases hv : v = 0#8 <;> simp [Memory.set, Memory.get, hv]
  | cons c m ih =>
    obtain ⟨k, w⟩ := c
    obtain ⟨hw, hm, hwf⟩ := (Memory.wf_cons k w m).1 h
    have below : a ≤ k → Memory.get m a = 0#8 := fun hak =>
      Memory.get_eq_zero_of_lt m a (List.all_eq_true.2 fun c hc => by
        have := List.all_eq_true.1 hm c hc
        simp only [decide_eq_true_eq] at *
        omega)
    unfold Memory.set
    split
    · rename_i hak
      by_cases hv : v = 0#8
      · simp [hv, Memory.get, below (by omega), show ¬ k = a by omega]
      · simp [hv, Memory.get]
    · split
      · rename_i hak
        by_cases hv : v = 0#8
        · simp [hv, below (by omega)]
        · simp [hv, Memory.get]
      · rename_i h1 h2
        simp [Memory.get, show ¬ k = a by omega, ih hwf]

/-- A write leaves every other byte alone. -/
theorem Memory.get_set_other (m : Memory) (a b : Nat) (v : Byte) (h : b ≠ a) :
    Memory.get (Memory.set m a v) b = Memory.get m b := by
  induction m with
  | nil => by_cases hv : v = 0#8 <;> simp [Memory.set, Memory.get, hv, Ne.symm h]
  | cons c m ih =>
    obtain ⟨k, w⟩ := c
    unfold Memory.set
    split
    · by_cases hv : v = 0#8 <;> simp [hv, Memory.get, Ne.symm h]
    · split
      · rename_i hak
        subst hak
        by_cases hv : v = 0#8 <;> simp [hv, Memory.get, Ne.symm h]
      · simp [Memory.get, ih]

/-- A property of all listed addresses that the written one has is kept. -/
theorem Memory.all_set (m : Memory) (a : Nat) (v : Byte) (p : Nat → Bool) (ha : p a = true)
    (h : m.all (fun c => p c.1) = true) : (Memory.set m a v).all (fun c => p c.1) = true := by
  induction m with
  | nil => by_cases hv : v = 0#8 <;> simp [Memory.set, hv, ha]
  | cons c m ih =>
    obtain ⟨k, w⟩ := c
    simp only [List.all_cons, Bool.and_eq_true] at h
    unfold Memory.set
    split
    · by_cases hv : v = 0#8
      · simp [hv, h.1]; simpa using h.2
      · simp [hv, h.1, ha]; simpa using h.2
    · split
      · by_cases hv : v = 0#8
        · simpa [hv] using h.2
        · simp [hv, ha]; simpa using h.2
      · simp only [List.all_cons, Bool.and_eq_true]
        exact ⟨h.1, ih h.2⟩

/-- A write keeps the canonical form. -/
theorem Memory.wf_set (m : Memory) (a : Nat) (v : Byte) (h : Memory.wf m = true) :
    Memory.wf (Memory.set m a v) = true := by
  induction m with
  | nil => by_cases hv : v = 0#8 <;> simp [Memory.set, Memory.wf, hv]
  | cons c m ih =>
    obtain ⟨k, w⟩ := c
    obtain ⟨hw, hm, hwf⟩ := (Memory.wf_cons k w m).1 h
    unfold Memory.set
    split
    · rename_i hak
      by_cases hv : v = 0#8
      · simpa [hv] using h
      · rw [if_neg hv, Memory.wf_cons]
        refine ⟨hv, ?_, h⟩
        simp only [List.all_cons, Bool.and_eq_true, decide_eq_true_eq]
        refine ⟨hak, List.all_eq_true.2 fun c hc => ?_⟩
        have := List.all_eq_true.1 hm c hc
        simp only [decide_eq_true_eq] at *
        omega
    · split
      · rename_i hak
        subst hak
        by_cases hv : v = 0#8
        · simpa [hv] using hwf
        · rw [if_neg hv, Memory.wf_cons]
          exact ⟨hv, hm, hwf⟩
      · rename_i h1 h2
        rw [Memory.wf_cons]
        exact ⟨hw, Memory.all_set m a v (fun x => decide (k < x)) (by simp; omega) hm, ih hwf⟩

/-- A write inside the buffer keeps every listed address inside it. -/
theorem Memory.inside_set (m : Memory) (a n : Nat) (v : Byte) (ha : a < n) (h : Memory.inside m n = true) :
    Memory.inside (Memory.set m a v) n = true :=
  Memory.all_set m a v (fun x => decide (x < n)) (by simpa using ha) h

/-- MemWrite keeps the canonical form. -/
theorem memWrite_wf (n : Nat) : ∀ (m : Memory) (addr v : Nat), Memory.wf m = true →
    Memory.wf (memWrite m addr n v) = true := by
  induction n with
  | zero => intro m addr v h; exact h
  | succ n ih => intro m addr v h; exact Memory.wf_set _ _ _ (ih m addr (v / 256) h)

/-- MemWrite inside the buffer stays inside it. -/
theorem memWrite_inside (n : Nat) : ∀ (m : Memory) (addr v size : Nat), addr + n ≤ size → Memory.inside m size = true →
    Memory.inside (memWrite m addr n v) size = true := by
  induction n with
  | zero => intro m addr v size _ h; exact h
  | succ n ih =>
    intro m addr v size hs h
    exact Memory.inside_set _ _ _ _ (by omega) (ih m addr (v / 256) size (by omega) h)

/-- MemWrite leaves every byte outside its range alone. -/
theorem memWrite_get_other (n : Nat) : ∀ (m : Memory) (addr v b : Nat), (b < addr ∨ addr + n ≤ b) →
    Memory.get (memWrite m addr n v) b = Memory.get m b := by
  induction n with
  | zero => intro m addr v b _; rfl
  | succ n ih =>
    intro m addr v b hb
    rw [memWrite, Memory.get_set_other _ _ _ _ (by omega), ih m addr (v / 256) b (by omega)]

/-- Storing a block keeps the canonical form. -/
theorem storeBlock_wf (m : Memory) (off : Nat) (b : Block) (h : Memory.wf m = true) :
    Memory.wf (storeBlock m off b) = true :=
  memWrite_wf _ _ _ _ (memWrite_wf _ _ _ _ (memWrite_wf _ _ _ _ (memWrite_wf _ _ _ _ h)))

/-- Storing a block inside the buffer stays inside it. -/
theorem storeBlock_inside (m : Memory) (off size : Nat) (b : Block) (hs : off + 8 ≤ size)
    (h : Memory.inside m size = true) : Memory.inside (storeBlock m off b) size = true :=
  memWrite_inside _ _ _ _ _ (by omega) (memWrite_inside _ _ _ _ _ (by omega)
    (memWrite_inside _ _ _ _ _ (by omega) (memWrite_inside _ _ _ _ _ (by omega) h)))

/-- Reset's buffer is canonical. -/
theorem reset_memory_wf : Memory.wf State.reset.dbuf = true := rfl

/-- What ZEROIZE and reset leave in the buffer is canonical. -/
theorem zeroized_memory_wf (s : State) : Memory.wf (zeroized s).dbuf = true ∧ Memory.wf (resetFrom s).dbuf = true :=
  ⟨rfl, rfl⟩

end Sys2Proof.Machine
end

