-- ==== Sys2Proof/Laws/Ops.lean ====
section
/-! SUPPORT. What the shared operations can do: draws, resampling loops, modular inversion, the select map, element access. -/

namespace Sys2Proof.Machine

/-- A delivered value lands in the range (R15). -/
theorem intoRange_mem (lo hi v : Nat) (h : lo ≤ hi) : lo ≤ intoRange lo hi v ∧ intoRange lo hi v ≤ hi := by
  unfold intoRange
  split
  · assumption
  · have := Nat.mod_lt v (show 0 < hi - lo + 1 by omega)
    omega

/-- A value of the range is delivered as it is (R15). -/
theorem intoRange_of_mem (lo hi v : Nat) (h : lo ≤ v ∧ v ≤ hi) : intoRange lo hi v = v := if_pos h

/-- A draw lies in its range (R15). -/
theorem draw_mem (lo hi : Nat) (src : Source) (h : lo ≤ hi) : lo ≤ (draw lo hi src).1 ∧ (draw lo hi src).1 ≤ hi := by
  unfold draw
  split <;> exact intoRange_mem lo hi _ h

/-- What the port had ready and was accepted is a value of the range. -/
theorem takeAccepted_some {α : Type} (lo hi : Nat) (ok : Nat → Option α) (h : lo ≤ hi) (l : List Nat) (a : α)
    (rest : List Nat) (ht : takeAccepted lo hi ok l = some (a, rest)) :
    ∃ v, lo ≤ v ∧ v ≤ hi ∧ ok v = some a := by
  induction l with
  | nil => simp [takeAccepted] at ht
  | cons v vs ih =>
    unfold takeAccepted at ht
    split at ht
    · rename_i b hb
      obtain ⟨rfl, -⟩ : b = a ∧ vs = rest := by simpa using ht
      exact ⟨_, (intoRange_mem lo hi v h).1, (intoRange_mem lo hi v h).2, hb⟩
    · exact ih ht

/-- What the search accepts is a value of the range. -/
theorem searchFrom_some {α : Type} (lo hi : Nat) (ok : Nat → Option α) (h : lo ≤ hi) (fuel : Nat) :
    ∀ (v : Nat) (a : α), lo ≤ v → v ≤ hi → searchFrom lo hi ok fuel v = some a → ∃ w, lo ≤ w ∧ w ≤ hi ∧ ok w = some a := by
  induction fuel with
  | zero => intro v a _ _ hs; simp [searchFrom] at hs
  | succ fuel ih =>
    intro v a hlo hhi hs
    unfold searchFrom at hs
    split at hs
    · rename_i b hb
      exact ⟨v, hlo, hhi, by rw [hb, ← hs]⟩
    · refine ih _ a ?_ ?_ hs <;> split <;> omega

/-- A search that finds nothing has tried every value it passed, in cyclic order. -/
theorem searchFrom_none {α : Type} (lo hi : Nat) (ok : Nat → Option α) (fuel : Nat) :
    ∀ (v : Nat), lo ≤ v → v ≤ hi → searchFrom lo hi ok fuel v = none →
      ∀ j, j < fuel → ok (lo + (v - lo + j) % (hi - lo + 1)) = none := by
  induction fuel with
  | zero => intro v _ _ _ j hj; omega
  | succ fuel ih =>
    intro v hlo hhi hs j hj
    unfold searchFrom at hs
    split at hs
    · exact absurd hs (by simp)
    · rename_i hv
      rcases j with _ | j
      · rw [Nat.add_zero, Nat.mod_eq_of_lt (by omega), show lo + (v - lo) = v by omega]
        exact hv
      · by_cases hend : hi ≤ v
        · rw [if_pos hend] at hs
          have := ih lo (Nat.le_refl _) (by omega) hs j (by omega)
          rw [show v - lo + (j + 1) = j + (hi - lo + 1) by omega, Nat.add_mod_right]
          simpa using this
        · rw [if_neg hend] at hs
          have := ih (v + 1) (by omega) (by omega) hs j (by omega)
          rwa [show v + 1 - lo + j = v - lo + (j + 1) by omega] at this

/-- The resampling loop has no result only where no value of the range is acceptable (R257). -/
theorem drawUntil_none {α : Type} (lo hi : Nat) (ok : Nat → Option α) (src : Source)
    (hd : drawUntil lo hi ok src = none) : ∀ v, lo ≤ v → v ≤ hi → ok v = none := by
  intro v hlo hhi
  have h : lo ≤ hi := by omega
  unfold drawUntil at hd
  split at hd
  · simp at hd
  · split at hd
    · simp at hd
    · rename_i hs
      obtain ⟨h1, h2⟩ := intoRange_mem lo hi (Config.freeDraw src.fresh) h
      generalize intoRange lo hi (Config.freeDraw src.fresh) = w at *
      by_cases hw : w ≤ v
      · have := searchFrom_none lo hi ok _ w h1 h2 hs (v - w) (by omega)
        rwa [show w - lo + (v - w) = v - lo by omega, Nat.mod_eq_of_lt (by omega),
          show lo + (v - lo) = v by omega] at this
      · have := searchFrom_none lo hi ok _ w h1 h2 hs (v + (hi - lo + 1) - w) (by omega)
        rwa [show w - lo + (v + (hi - lo + 1) - w) = v - lo + (hi - lo + 1) by omega, Nat.add_mod_right,
          Nat.mod_eq_of_lt (by omega), show lo + (v - lo) = v by omega] at this

/-- What the resampling loop accepts is an acceptable value of the range (R257). -/
theorem drawUntil_some {α : Type} (lo hi : Nat) (ok : Nat → Option α) (src : Source) (h : lo ≤ hi) (a : α)
    (src' : Source) (hd : drawUntil lo hi ok src = some (a, src')) : ∃ v, lo ≤ v ∧ v ≤ hi ∧ ok v = some a := by
  unfold drawUntil at hd
  split at hd
  · rename_i b rest ht
    obtain ⟨rfl, -⟩ : b = a ∧ _ := by simpa using hd
    exact takeAccepted_some lo hi ok h _ _ _ ht
  · split at hd
    · rename_i b hs
      obtain ⟨rfl, -⟩ : b = a ∧ _ := by simpa using hd
      exact searchFrom_some lo hi ok h _ _ _ (intoRange_mem lo hi _ h).1 (intoRange_mem lo hi _ h).2 hs
    · simp at hd

/-- `modSub` is subtraction modulo `m`. -/
theorem natCast_modSub (m u v : Nat) (hm : 0 < m) : ((modSub m u v : Nat) : ZMod m) = (u : ZMod m) - v := by
  have hv : v % m ≤ m := (Nat.mod_lt v hm).le
  unfold modSub
  rw [ZMod.natCast_mod, Nat.cast_add, Nat.cast_sub hv, ZMod.natCast_mod, ZMod.natCast_self]
  ring

/-- `modSub` is a residue. -/
theorem modSub_lt (m u v : Nat) (hm : 0 < m) : modSub m u v < m := Nat.mod_lt _ hm

/-- The loop of the extended Euclid: its answer times `a` is the gcd, modulo `m`. -/
theorem modInvLoop_spec (m a : Nat) (hm : 0 < m) (fuel : Nat) : ∀ (r0 t0 r1 t1 : Nat), r1 < fuel → t0 < m → t1 < m →
    (r0 : ZMod m) = t0 * a → (r1 : ZMod m) = t1 * a →
    modInvLoop m fuel r0 t0 r1 t1 < m ∧
      ((modInvLoop m fuel r0 t0 r1 t1 : Nat) : ZMod m) * a = (Nat.gcd r0 r1 : Nat) := by
  induction fuel with
  | zero => intro r0 t0 r1 t1 h; omega
  | succ fuel ih =>
    intro r0 t0 r1 t1 hf h0 h1 e0 e1
    unfold modInvLoop
    split
    · rename_i hz
      subst hz
      exact ⟨h0, by rw [Nat.gcd_zero_right, e0]⟩
    · rename_i hz
      have hlt : r0 % r1 < r1 := Nat.mod_lt _ (by omega)
      have hrem : ((r0 % r1 : Nat) : ZMod m) = (r0 : ZMod m) - (r0 / r1 : Nat) * r1 := by
        have := congrArg (Nat.cast : Nat → ZMod m) (Nat.mod_add_div r0 r1)
        push_cast at this
        rw [← this]
        ring
      have := ih r1 t1 (r0 % r1) (modSub m t0 (r0 / r1 * t1)) (by omega) h1 (modSub_lt _ _ _ hm) e1 (by
        rw [hrem, natCast_modSub _ _ _ hm, e0, e1]
        push_cast
        ring)
      rwa [Nat.gcd_comm r1, ← Nat.gcd_rec, Nat.gcd_comm] at this

/-- R16: the inverse is a residue, and it is the inverse whenever one exists. -/
theorem modInv_spec (a m : Nat) (hm : 2 ≤ m) (hg : Nat.gcd (a % m) m = 1) :
    1 ≤ modInv a m ∧ modInv a m < m ∧ a * modInv a m % m = 1 := by
  have hlt : a % m < m := Nat.mod_lt _ (by omega)
  obtain ⟨h1, h2⟩ := modInvLoop_spec m a (by omega) (m + 1) m 0 (a % m) 1 (by omega) (by omega) (by omega)
    (by simp) (by simp)
  change modInv a m < m at h1
  change ((modInv a m : Nat) : ZMod m) * a = _ at h2
  rw [Nat.gcd_comm, hg, ← Nat.cast_mul, ZMod.natCast_eq_natCast_iff] at h2
  have h3 : a * modInv a m % m = 1 := by
    rw [Nat.mul_comm]
    have := h2
    rw [Nat.ModEq, Nat.mod_eq_of_lt (show 1 < m by omega)] at this
    exact this
  refine ⟨?_, h1, h3⟩
  rcases Nat.eq_zero_or_pos (modInv a m) with h0 | h0
  · rw [h0] at h3; simp at h3
  · exact h0

/-- R16: the inverse is unique. -/
theorem modInv_unique (a m x : Nat) (hm : 2 ≤ m) (hx : x < m) (h : a * x % m = 1) : x = modInv a m := by
  have hg : Nat.gcd (a % m) m = 1 := by
    have : Nat.Coprime a m := by
      rw [Nat.coprime_iff_gcd_eq_one]
      have hd1 : Nat.gcd a m ∣ a * x % m :=
        (Nat.dvd_mod_iff (Nat.gcd_dvd_right a m)).2 (Dvd.dvd.mul_right (Nat.gcd_dvd_left a m) x)
      rw [h] at hd1
      exact Nat.dvd_one.1 hd1
    rwa [← Nat.gcd_rec, Nat.gcd_comm]
  obtain ⟨-, h2, h3⟩ := modInv_spec a m hm hg
  have e1 : ((a * x : Nat) : ZMod m) = (1 : Nat) := by
    rw [ZMod.natCast_eq_natCast_iff, Nat.ModEq, h, Nat.mod_eq_of_lt (by omega)]
  have e2 : ((a * modInv a m : Nat) : ZMod m) = (1 : Nat) := by
    rw [ZMod.natCast_eq_natCast_iff, Nat.ModEq, h3, Nat.mod_eq_of_lt (by omega)]
  push_cast at e1 e2
  have e3 : (x : ZMod m) = (modInv a m : Nat) := by
    calc (x : ZMod m) = (a * (modInv a m : Nat)) * x := by rw [e2, one_mul]
      _ = (a * x) * (modInv a m : Nat) := by ring
      _ = (modInv a m : Nat) := by rw [e1, one_mul]
  rw [ZMod.natCast_eq_natCast_iff, Nat.ModEq, Nat.mod_eq_of_lt hx, Nat.mod_eq_of_lt h2] at e3
  exact e3

/-- R20: the select numbers of two registers differ, and a select number finds its register. -/
@[simp] theorem regOf_selOf (r : Reg) : regOf (selOf r) = some r := by cases r <;> decide

/-- A register that a select number finds has that number. -/
theorem selOf_of_regOf (sel : BitVec 8) (r : Reg) (h : regOf sel = some r) : selOf r = sel := by
  simpa using List.find?_some h

/-- An element of a computed array. -/
@[simp] theorem elem_ofFn {w k : Nat} (f : Fin k → BitVec w) (i : Nat) (h : i < k) :
    elem (Vector.ofFn f) i = f ⟨i, h⟩ := by
  simp [elem, h]

end Sys2Proof.Machine
end

