-- ==== Sys2Proof/Laws/PerInstr.lean ====
section
/-! SUPPORT. Statements about every instruction as syntax, one lemma per constructor. The family `MatchMask`: the word of a
well-formed command matches the row of spec/30_encoding.md R82's match and mask table. -/

namespace Sys2Proof.Laws.MatchMask

open Sys2Proof Sys2Proof.Machine

/-- R82: `w and mask = match` for the word of the command. -/
def Statement (i : Instr) : Prop := i.wellFormed = true → encode i &&& (matchMask i).2 = (matchMask i).1

/-- The bits of a word made of an upper and a lower half. -/
theorem halves_and (hi imm mask : Nat) (h : imm < 2 ^ 16) :
    BitVec.ofNat 32 (2 ^ 16 * hi + imm) &&& BitVec.ofNat 32 (2 ^ 16 * mask) = BitVec.ofNat 32 (2 ^ 16 * (hi &&& mask)) := by
  apply BitVec.eq_of_getLsbD_eq
  intro k hk
  have low := Nat.testBit_two_pow_mul_add hi h k
  have upper := fun x => Nat.testBit_two_pow_mul_add x (show 0 < 2 ^ 16 by decide) k
  simp only [Nat.add_zero, Nat.zero_testBit] at upper
  simp only [BitVec.getLsbD_and, BitVec.getLsbD_ofNat, low, upper]
  by_cases h16 : k < 16 <;> simp [h16, hk, Nat.testBit_and]

theorem nop : Statement .nop := by unfold Statement; decide
theorem zeroize : Statement .zeroize := by unfold Statement; decide
theorem csinv : Statement .csinv := by unfold Statement; decide
theorem kpub : Statement .kpub := by unfold Statement; decide
theorem kminv : Statement .kminv := by unfold Statement; decide
theorem eldg : Statement .eldg := by unfold Statement; decide
theorem epadd : Statement .epadd := by unfold Statement; decide
theorem epmul : Statement .epmul := by unfold Statement; decide
theorem esinv : Statement .esinv := by unfold Statement; decide
theorem ekeygen : Statement .ekeygen := by unfold Statement; decide
theorem esign : Statement .esign := by unfold Statement; decide
theorem everify : Statement .everify := by unfold Statement; decide

/-- The masks and matches of formats I and D as halves. -/
theorem halves_of_row :
    (0xFFFF0000 : CmdWord) = BitVec.ofNat 32 (2 ^ 16 * 0xFFFF) ∧ (0xFFFE0000 : CmdWord) = BitVec.ofNat 32 (2 ^ 16 * 0xFFFE) := by
  decide

theorem cblock (imm : Nat) : Statement (.cblock imm) := fun h => by
  have h1 := halves_and 0x1200 imm 0xFFFF (by simpa [Instr.wellFormed] using h)
  have h2 : encode (.cblock imm) = BitVec.ofNat 32 (2 ^ 16 * 0x1200 + imm) := congrArg (BitVec.ofNat 32) (by
    simp only [opcode, dirField, immField]; omega)
  simp only [matchMask]
  rw [h2, halves_of_row.1, h1]
  decide

theorem kgen (imm : Nat) : Statement (.kgen imm) := fun h => by
  have h1 := halves_and 0x2000 imm 0xFFFF (by simpa [Instr.wellFormed] using h)
  have h2 : encode (.kgen imm) = BitVec.ofNat 32 (2 ^ 16 * 0x2000 + imm) := congrArg (BitVec.ofNat 32) (by
    simp only [opcode, dirField, immField]; omega)
  simp only [matchMask]
  rw [h2, halves_of_row.1, h1]
  decide

theorem kenc (imm : Nat) : Statement (.kenc imm) := fun h => by
  have h1 := halves_and 0x2300 imm 0xFFFF (by simpa [Instr.wellFormed] using h)
  have h2 : encode (.kenc imm) = BitVec.ofNat 32 (2 ^ 16 * 0x2300 + imm) := congrArg (BitVec.ofNat 32) (by
    simp only [opcode, dirField, immField]; omega)
  simp only [matchMask]
  rw [h2, halves_of_row.1, h1]
  decide

theorem kdec (imm : Nat) : Statement (.kdec imm) := fun h => by
  have h1 := halves_and 0x2400 imm 0xFFFF (by simpa [Instr.wellFormed] using h)
  have h2 : encode (.kdec imm) = BitVec.ofNat 32 (2 ^ 16 * 0x2400 + imm) := congrArg (BitVec.ofNat 32) (by
    simp only [opcode, dirField, immField]; omega)
  simp only [matchMask]
  rw [h2, halves_of_row.1, h1]
  decide

theorem csched (e : Bool) (imm : Nat) : Statement (.csched e imm) := fun h => by
  have h1 := halves_and (0x1000 + if e then 1 else 0) imm 0xFFFE (by simpa [Instr.wellFormed] using h)
  have h2 : encode (.csched e imm) = BitVec.ofNat 32 (2 ^ 16 * (0x1000 + if e then 1 else 0) + imm) :=
    congrArg (BitVec.ofNat 32) (by simp only [opcode, dirField, immField]; omega)
  simp only [matchMask]
  rw [h2, halves_of_row.2, h1]
  cases e <;> decide

end Sys2Proof.Laws.MatchMask
end

