-- ==== Sys2Proof/Laws/State.lean ====
section
/-! SUPPORT. One lemma per field per named update, each true by definition, so that no proof unfolds a record update. -/

namespace Sys2Proof.Machine

@[simp] theorem Status.issued_busy (st : Status) : (st.issued).busy = true := rfl
@[simp] theorem Status.issued_done (st : Status) : (st.issued).done = false := rfl
@[simp] theorem Status.issued_err (st : Status) : (st.issued).err = false := rfl
@[simp] theorem Status.issued_keyv (st : Status) : (st.issued).keyv = st.keyv := rfl
@[simp] theorem Status.issued_skv (st : Status) : (st.issued).skv = st.skv := rfl
@[simp] theorem Status.issued_skdir (st : Status) : (st.issued).skdir = st.skdir := rfl
@[simp] theorem Status.issued_vok (st : Status) : (st.issued).vok = st.vok := rfl
@[simp] theorem Status.issued_errcode (st : Status) : (st.issued).errcode = 0 := rfl
@[simp] theorem Status.issued_serr (st : Status) : (st.issued).serr = st.serr := rfl
@[simp] theorem Status.issued_wbusy (st : Status) : (st.issued).wbusy = st.wbusy := rfl
@[simp] theorem Status.issued_badacc (st : Status) : (st.issued).badacc = st.badacc := rfl

@[simp] theorem Status.completed_busy (st : Status) : (st.completed).busy = false := rfl
@[simp] theorem Status.completed_done (st : Status) : (st.completed).done = true := rfl
@[simp] theorem Status.completed_err (st : Status) : (st.completed).err = false := rfl
@[simp] theorem Status.completed_keyv (st : Status) : (st.completed).keyv = st.keyv := rfl
@[simp] theorem Status.completed_skv (st : Status) : (st.completed).skv = st.skv := rfl
@[simp] theorem Status.completed_skdir (st : Status) : (st.completed).skdir = st.skdir := rfl
@[simp] theorem Status.completed_vok (st : Status) : (st.completed).vok = st.vok := rfl
@[simp] theorem Status.completed_errcode (st : Status) : (st.completed).errcode = 0 := rfl
@[simp] theorem Status.completed_serr (st : Status) : (st.completed).serr = st.serr := rfl
@[simp] theorem Status.completed_wbusy (st : Status) : (st.completed).wbusy = st.wbusy := rfl
@[simp] theorem Status.completed_badacc (st : Status) : (st.completed).badacc = st.badacc := rfl

@[simp] theorem Status.failed_busy (st : Status) (e : CmdError) : (st.failed e).busy = false := rfl
@[simp] theorem Status.failed_done (st : Status) (e : CmdError) : (st.failed e).done = true := rfl
@[simp] theorem Status.failed_err (st : Status) (e : CmdError) : (st.failed e).err = true := rfl
@[simp] theorem Status.failed_keyv (st : Status) (e : CmdError) : (st.failed e).keyv = st.keyv := rfl
@[simp] theorem Status.failed_skv (st : Status) (e : CmdError) : (st.failed e).skv = st.skv := rfl
@[simp] theorem Status.failed_skdir (st : Status) (e : CmdError) : (st.failed e).skdir = st.skdir := rfl
@[simp] theorem Status.failed_vok (st : Status) (e : CmdError) : (st.failed e).vok = st.vok := rfl
@[simp] theorem Status.failed_errcode (st : Status) (e : CmdError) : (st.failed e).errcode = errorCode e := rfl
@[simp] theorem Status.failed_serr (st : Status) (e : CmdError) : (st.failed e).serr = true := rfl
@[simp] theorem Status.failed_wbusy (st : Status) (e : CmdError) : (st.failed e).wbusy = st.wbusy := rfl
@[simp] theorem Status.failed_badacc (st : Status) (e : CmdError) : (st.failed e).badacc = st.badacc := rfl

@[simp] theorem Status.zeroized_busy (st : Status) : (st.zeroized).busy = st.busy := rfl
@[simp] theorem Status.zeroized_done (st : Status) : (st.zeroized).done = st.done := rfl
@[simp] theorem Status.zeroized_err (st : Status) : (st.zeroized).err = st.err := rfl
@[simp] theorem Status.zeroized_keyv (st : Status) : (st.zeroized).keyv = false := rfl
@[simp] theorem Status.zeroized_skv (st : Status) : (st.zeroized).skv = false := rfl
@[simp] theorem Status.zeroized_skdir (st : Status) : (st.zeroized).skdir = false := rfl
@[simp] theorem Status.zeroized_vok (st : Status) : (st.zeroized).vok = false := rfl
@[simp] theorem Status.zeroized_errcode (st : Status) : (st.zeroized).errcode = st.errcode := rfl
@[simp] theorem Status.zeroized_serr (st : Status) : (st.zeroized).serr = st.serr := rfl
@[simp] theorem Status.zeroized_wbusy (st : Status) : (st.zeroized).wbusy = st.wbusy := rfl
@[simp] theorem Status.zeroized_badacc (st : Status) : (st.zeroized).badacc = st.badacc := rfl

@[simp] theorem Status.writeOneClear_busy (st : Status) (v : CmdWord) : (st.writeOneClear v).busy = st.busy := rfl
@[simp] theorem Status.writeOneClear_done (st : Status) (v : CmdWord) : (st.writeOneClear v).done = (st.done && !v.getLsbD 1) := rfl
@[simp] theorem Status.writeOneClear_err (st : Status) (v : CmdWord) : (st.writeOneClear v).err = st.err := rfl
@[simp] theorem Status.writeOneClear_keyv (st : Status) (v : CmdWord) : (st.writeOneClear v).keyv = st.keyv := rfl
@[simp] theorem Status.writeOneClear_skv (st : Status) (v : CmdWord) : (st.writeOneClear v).skv = st.skv := rfl
@[simp] theorem Status.writeOneClear_skdir (st : Status) (v : CmdWord) : (st.writeOneClear v).skdir = st.skdir := rfl
@[simp] theorem Status.writeOneClear_vok (st : Status) (v : CmdWord) : (st.writeOneClear v).vok = st.vok := rfl
@[simp] theorem Status.writeOneClear_errcode (st : Status) (v : CmdWord) : (st.writeOneClear v).errcode = st.errcode := rfl
@[simp] theorem Status.writeOneClear_serr (st : Status) (v : CmdWord) : (st.writeOneClear v).serr = (st.serr && !v.getLsbD 16) := rfl
@[simp] theorem Status.writeOneClear_wbusy (st : Status) (v : CmdWord) : (st.writeOneClear v).wbusy = (st.wbusy && !v.getLsbD 17) := rfl
@[simp] theorem Status.writeOneClear_badacc (st : Status) (v : CmdWord) : (st.writeOneClear v).badacc = (st.badacc && !v.getLsbD 18) := rfl

@[simp] theorem CurveRegs.writeEflags_ed (r : CurveRegs) (v : BitVec 8) : (r.writeEflags v).ed = r.ed := rfl
@[simp] theorem CurveRegs.writeEflags_eqx (r : CurveRegs) (v : BitVec 8) : (r.writeEflags v).eqx = r.eqx := rfl
@[simp] theorem CurveRegs.writeEflags_eqy (r : CurveRegs) (v : BitVec 8) : (r.writeEflags v).eqy = r.eqy := rfl
@[simp] theorem CurveRegs.writeEflags_ee (r : CurveRegs) (v : BitVec 8) : (r.writeEflags v).ee = r.ee := rfl
@[simp] theorem CurveRegs.writeEflags_er (r : CurveRegs) (v : BitVec 8) : (r.writeEflags v).er = r.er := rfl
@[simp] theorem CurveRegs.writeEflags_es (r : CurveRegs) (v : BitVec 8) : (r.writeEflags v).es = r.es := rfl
@[simp] theorem CurveRegs.writeEflags_ek (r : CurveRegs) (v : BitVec 8) : (r.writeEflags v).ek = r.ek := rfl
@[simp] theorem CurveRegs.writeEflags_epx (r : CurveRegs) (v : BitVec 8) : (r.writeEflags v).epx = r.epx := rfl
@[simp] theorem CurveRegs.writeEflags_epy (r : CurveRegs) (v : BitVec 8) : (r.writeEflags v).epy = r.epy := rfl
@[simp] theorem CurveRegs.writeEflags_pinf (r : CurveRegs) (v : BitVec 8) : (r.writeEflags v).pinf = v.getLsbD 0 := rfl
@[simp] theorem CurveRegs.writeEflags_qinf (r : CurveRegs) (v : BitVec 8) : (r.writeEflags v).qinf = v.getLsbD 1 := rfl
@[simp] theorem CurveRegs.writeEflags_rinf (r : CurveRegs) (v : BitVec 8) : (r.writeEflags v).rinf = r.rinf := rfl
@[simp] theorem CurveRegs.writeEflags_erx (r : CurveRegs) (v : BitVec 8) : (r.writeEflags v).erx = r.erx := rfl
@[simp] theorem CurveRegs.writeEflags_ery (r : CurveRegs) (v : BitVec 8) : (r.writeEflags v).ery = r.ery := rfl
@[simp] theorem CurveRegs.writeEflags_einv (r : CurveRegs) (v : BitVec 8) : (r.writeEflags v).einv = r.einv := rfl

@[simp] theorem withResult_ed (r : CurveRegs) (p : Point) : (withResult r p).ed = r.ed := rfl
@[simp] theorem withResult_eqx (r : CurveRegs) (p : Point) : (withResult r p).eqx = r.eqx := rfl
@[simp] theorem withResult_eqy (r : CurveRegs) (p : Point) : (withResult r p).eqy = r.eqy := rfl
@[simp] theorem withResult_ee (r : CurveRegs) (p : Point) : (withResult r p).ee = r.ee := rfl
@[simp] theorem withResult_er (r : CurveRegs) (p : Point) : (withResult r p).er = r.er := rfl
@[simp] theorem withResult_es (r : CurveRegs) (p : Point) : (withResult r p).es = r.es := rfl
@[simp] theorem withResult_ek (r : CurveRegs) (p : Point) : (withResult r p).ek = r.ek := rfl
@[simp] theorem withResult_epx (r : CurveRegs) (p : Point) : (withResult r p).epx = r.epx := rfl
@[simp] theorem withResult_epy (r : CurveRegs) (p : Point) : (withResult r p).epy = r.epy := rfl
@[simp] theorem withResult_pinf (r : CurveRegs) (p : Point) : (withResult r p).pinf = r.pinf := rfl
@[simp] theorem withResult_qinf (r : CurveRegs) (p : Point) : (withResult r p).qinf = r.qinf := rfl
@[simp] theorem withResult_rinf (r : CurveRegs) (p : Point) : (withResult r p).rinf = p.isInfinity := rfl
@[simp] theorem withResult_erx (r : CurveRegs) (p : Point) : (withResult r p).erx = p.xReg := rfl
@[simp] theorem withResult_ery (r : CurveRegs) (p : Point) : (withResult r p).ery = p.yReg := rfl
@[simp] theorem withResult_einv (r : CurveRegs) (p : Point) : (withResult r p).einv = r.einv := rfl

@[simp] theorem curveKeyPair_ed (c : Curve) (r : CurveRegs) (d : Nat) : (curveKeyPair c r d).ed = BitVec.ofNat 192 d := rfl
@[simp] theorem curveKeyPair_eqx (c : Curve) (r : CurveRegs) (d : Nat) : (curveKeyPair c r d).eqx = (publicPoint c d).xReg := rfl
@[simp] theorem curveKeyPair_eqy (c : Curve) (r : CurveRegs) (d : Nat) : (curveKeyPair c r d).eqy = (publicPoint c d).yReg := rfl
@[simp] theorem curveKeyPair_ee (c : Curve) (r : CurveRegs) (d : Nat) : (curveKeyPair c r d).ee = r.ee := rfl
@[simp] theorem curveKeyPair_er (c : Curve) (r : CurveRegs) (d : Nat) : (curveKeyPair c r d).er = r.er := rfl
@[simp] theorem curveKeyPair_es (c : Curve) (r : CurveRegs) (d : Nat) : (curveKeyPair c r d).es = r.es := rfl
@[simp] theorem curveKeyPair_ek (c : Curve) (r : CurveRegs) (d : Nat) : (curveKeyPair c r d).ek = r.ek := rfl
@[simp] theorem curveKeyPair_epx (c : Curve) (r : CurveRegs) (d : Nat) : (curveKeyPair c r d).epx = r.epx := rfl
@[simp] theorem curveKeyPair_epy (c : Curve) (r : CurveRegs) (d : Nat) : (curveKeyPair c r d).epy = r.epy := rfl
@[simp] theorem curveKeyPair_pinf (c : Curve) (r : CurveRegs) (d : Nat) : (curveKeyPair c r d).pinf = r.pinf := rfl
@[simp] theorem curveKeyPair_qinf (c : Curve) (r : CurveRegs) (d : Nat) : (curveKeyPair c r d).qinf = false := rfl
@[simp] theorem curveKeyPair_rinf (c : Curve) (r : CurveRegs) (d : Nat) : (curveKeyPair c r d).rinf = r.rinf := rfl
@[simp] theorem curveKeyPair_erx (c : Curve) (r : CurveRegs) (d : Nat) : (curveKeyPair c r d).erx = r.erx := rfl
@[simp] theorem curveKeyPair_ery (c : Curve) (r : CurveRegs) (d : Nat) : (curveKeyPair c r d).ery = r.ery := rfl
@[simp] theorem curveKeyPair_einv (c : Curve) (r : CurveRegs) (d : Nat) : (curveKeyPair c r d).einv = r.einv := rfl

@[simp] theorem keyPairRegs_klen (r : KnapRegs) (n : Nat) (w : List Nat) (m a : Nat) : (keyPairRegs r n w m a).klen = BitVec.ofNat 8 n := rfl
@[simp] theorem keyPairRegs_km (r : KnapRegs) (n : Nat) (w : List Nat) (m a : Nat) : (keyPairRegs r n w m a).km = BitVec.ofNat 136 m := rfl
@[simp] theorem keyPairRegs_ka (r : KnapRegs) (n : Nat) (w : List Nat) (m a : Nat) : (keyPairRegs r n w m a).ka = BitVec.ofNat 136 a := rfl
@[simp] theorem keyPairRegs_kinv (r : KnapRegs) (n : Nat) (w : List Nat) (m a : Nat) : (keyPairRegs r n w m a).kinv = 0 := rfl
@[simp] theorem keyPairRegs_kkey (r : KnapRegs) (n : Nat) (w : List Nat) (m a : Nat) : (keyPairRegs r n w m a).kkey = r.kkey := rfl
@[simp] theorem keyPairRegs_kc (r : KnapRegs) (n : Nat) (w : List Nat) (m a : Nat) : (keyPairRegs r n w m a).kc = r.kc := rfl

@[simp] theorem issue_cfg (w : CmdWord) (s : State) : (issue w s).cfg = s.cfg := rfl
@[simp] theorem issue_cmd (w : CmdWord) (s : State) : (issue w s).cmd = w := rfl
@[simp] theorem issue_cmdl (w : CmdWord) (s : State) : (issue w s).cmdl = w := rfl
@[simp] theorem issue_status (w : CmdWord) (s : State) : (issue w s).status = s.status.issued := rfl
@[simp] theorem issue_ie (w : CmdWord) (s : State) : (issue w s).ie = s.ie := rfl
@[simp] theorem issue_key (w : CmdWord) (s : State) : (issue w s).key = s.key := rfl
@[simp] theorem issue_sk (w : CmdWord) (s : State) : (issue w s).sk = s.sk := rfl
@[simp] theorem issue_dbuf (w : CmdWord) (s : State) : (issue w s).dbuf = s.dbuf := rfl
@[simp] theorem issue_knap (w : CmdWord) (s : State) : (issue w s).knap = s.knap := rfl
@[simp] theorem issue_ec (w : CmdWord) (s : State) : (issue w s).ec = s.ec := rfl
@[simp] theorem issue_agenda (w : CmdWord) (s : State) : (issue w s).agenda = s.agenda := rfl
@[simp] theorem issue_src (w : CmdWord) (s : State) : (issue w s).src = s.src := rfl
@[simp] theorem issue_rdata (w : CmdWord) (s : State) : (issue w s).rdata = s.rdata := rfl

@[simp] theorem zeroized_cfg (s : State) : (zeroized s).cfg = s.cfg := rfl
@[simp] theorem zeroized_cmd (s : State) : (zeroized s).cmd = s.cmd := rfl
@[simp] theorem zeroized_cmdl (s : State) : (zeroized s).cmdl = s.cmdl := rfl
@[simp] theorem zeroized_status (s : State) : (zeroized s).status = s.status.zeroized := rfl
@[simp] theorem zeroized_ie (s : State) : (zeroized s).ie = s.ie := rfl
@[simp] theorem zeroized_key (s : State) : (zeroized s).key = 0 := rfl
@[simp] theorem zeroized_sk (s : State) : (zeroized s).sk = Vector.ofFn fun _ => 0 := rfl
@[simp] theorem zeroized_dbuf (s : State) : (zeroized s).dbuf = [] := rfl
@[simp] theorem zeroized_knap (s : State) : (zeroized s).knap = KnapRegs.reset := rfl
@[simp] theorem zeroized_ec (s : State) : (zeroized s).ec = CurveRegs.reset := rfl
@[simp] theorem zeroized_agenda (s : State) : (zeroized s).agenda = s.agenda := rfl
@[simp] theorem zeroized_src (s : State) : (zeroized s).src = s.src := rfl
@[simp] theorem zeroized_rdata (s : State) : (zeroized s).rdata = s.rdata := rfl

@[simp] theorem resetFrom_cfg (s : State) : (resetFrom s).cfg = s.cfg := rfl
@[simp] theorem resetFrom_cmd (s : State) : (resetFrom s).cmd = 0 := rfl
@[simp] theorem resetFrom_cmdl (s : State) : (resetFrom s).cmdl = 0 := rfl
@[simp] theorem resetFrom_status (s : State) : (resetFrom s).status = Status.reset := rfl
@[simp] theorem resetFrom_ie (s : State) : (resetFrom s).ie = false := rfl
@[simp] theorem resetFrom_key (s : State) : (resetFrom s).key = 0 := rfl
@[simp] theorem resetFrom_sk (s : State) : (resetFrom s).sk = Vector.ofFn fun _ => 0 := rfl
@[simp] theorem resetFrom_dbuf (s : State) : (resetFrom s).dbuf = [] := rfl
@[simp] theorem resetFrom_knap (s : State) : (resetFrom s).knap = KnapRegs.reset := rfl
@[simp] theorem resetFrom_ec (s : State) : (resetFrom s).ec = CurveRegs.reset := rfl
@[simp] theorem resetFrom_agenda (s : State) : (resetFrom s).agenda = s.agenda := rfl
@[simp] theorem resetFrom_src (s : State) : (resetFrom s).src = s.src := rfl
@[simp] theorem resetFrom_rdata (s : State) : (resetFrom s).rdata = s.rdata := rfl

@[simp] theorem markDropped_cfg (busy bad : Bool) (s : State) : (markDropped busy bad s).cfg = s.cfg := rfl
@[simp] theorem markDropped_cmd (busy bad : Bool) (s : State) : (markDropped busy bad s).cmd = s.cmd := rfl
@[simp] theorem markDropped_cmdl (busy bad : Bool) (s : State) : (markDropped busy bad s).cmdl = s.cmdl := rfl
@[simp] theorem markDropped_ie (busy bad : Bool) (s : State) : (markDropped busy bad s).ie = s.ie := rfl
@[simp] theorem markDropped_key (busy bad : Bool) (s : State) : (markDropped busy bad s).key = s.key := rfl
@[simp] theorem markDropped_sk (busy bad : Bool) (s : State) : (markDropped busy bad s).sk = s.sk := rfl
@[simp] theorem markDropped_dbuf (busy bad : Bool) (s : State) : (markDropped busy bad s).dbuf = s.dbuf := rfl
@[simp] theorem markDropped_knap (busy bad : Bool) (s : State) : (markDropped busy bad s).knap = s.knap := rfl
@[simp] theorem markDropped_ec (busy bad : Bool) (s : State) : (markDropped busy bad s).ec = s.ec := rfl
@[simp] theorem markDropped_agenda (busy bad : Bool) (s : State) : (markDropped busy bad s).agenda = s.agenda := rfl
@[simp] theorem markDropped_src (busy bad : Bool) (s : State) : (markDropped busy bad s).src = s.src := rfl
@[simp] theorem markDropped_rdata (busy bad : Bool) (s : State) : (markDropped busy bad s).rdata = s.rdata := rfl

@[simp] theorem placeCommand_cfg (w : CmdWord) (s : State) : (placeCommand w s).cfg = s.cfg := rfl
@[simp] theorem placeCommand_cmd (w : CmdWord) (s : State) : (placeCommand w s).cmd = w := rfl
@[simp] theorem placeCommand_cmdl (w : CmdWord) (s : State) : (placeCommand w s).cmdl = w := rfl
@[simp] theorem placeCommand_status (w : CmdWord) (s : State) : (placeCommand w s).status = s.status.issued := rfl
@[simp] theorem placeCommand_ie (w : CmdWord) (s : State) : (placeCommand w s).ie = s.ie := rfl
@[simp] theorem placeCommand_key (w : CmdWord) (s : State) : (placeCommand w s).key = s.key := rfl
@[simp] theorem placeCommand_sk (w : CmdWord) (s : State) : (placeCommand w s).sk = s.sk := rfl
@[simp] theorem placeCommand_dbuf (w : CmdWord) (s : State) : (placeCommand w s).dbuf = s.dbuf := rfl
@[simp] theorem placeCommand_knap (w : CmdWord) (s : State) : (placeCommand w s).knap = s.knap := rfl
@[simp] theorem placeCommand_ec (w : CmdWord) (s : State) : (placeCommand w s).ec = s.ec := rfl
@[simp] theorem placeCommand_agenda (w : CmdWord) (s : State) : (placeCommand w s).agenda = .core :: s.agenda := rfl
@[simp] theorem placeCommand_src (w : CmdWord) (s : State) : (placeCommand w s).src = s.src := rfl
@[simp] theorem placeCommand_rdata (w : CmdWord) (s : State) : (placeCommand w s).rdata = s.rdata := rfl

/-- Successful completion answers exactly one state. -/
@[simp] theorem succeed_eq_next (s t : State) :
    succeed s = .next t ↔ t = { s with status := s.status.completed } := by
  constructor
  · intro h; cases h; rfl
  · intro h; subst h; rfl

/-- Error completion answers exactly one state. -/
@[simp] theorem raise_eq_next (e : CmdError) (s t : State) :
    raise e s = .next t ↔ t = { s with status := s.status.failed e } := by
  constructor
  · intro h; cases h; rfl
  · intro h; subst h; rfl

end Sys2Proof.Machine
end

