-- ==== Sys2Proof/Tests/Slice0.lean ====
section
/-! SUPPORT. The model's own tests: well-formedness, words written out from spec/30_encoding.md, vectors of
spec/95_test_vectors.md, and a witness for the hypotheses of each obligation that has some. -/

namespace Sys2Proof.Tests

open Sys2Proof Sys2Proof.Machine

set_option Elab.async false

/-! ### Well-formedness (R81): each check refuses an immediate of 17 bits -/

theorem test_wellFormed_refuses :
    (Instr.csched true 65536).wellFormed = false ∧ (Instr.cblock 65536).wellFormed = false ∧
    (Instr.kgen 65536).wellFormed = false ∧ (Instr.kenc 65536).wellFormed = false ∧
    (Instr.kdec 65536).wellFormed = false := by decide

theorem test_wellFormed_accepts :
    (Instr.csched false 65535).wellFormed = true ∧ (Instr.cblock 65535).wellFormed = true ∧
    (Instr.kgen 65535).wellFormed = true ∧ (Instr.kenc 65535).wellFormed = true ∧ (Instr.kdec 65535).wellFormed = true ∧
    Instr.everify.wellFormed = true := by decide

theorem test_config_wf : Config.default.wf = true := by decide +kernel

theorem test_config_refuses :
    ({ Config.default with dbufBytes := 12 } : Config).wf = false ∧ ({ Config.default with dbufBytes := 0 } : Config).wf = false ∧
    ({ Config.default with dbufBytes := 65544 } : Config).wf = false ∧
    ({ Config.default with curve := { Curve.p192 with gx := 1 } } : Config).wf = false := by decide +kernel

theorem test_host_params_wf :
    (HostParams.reference .noCallback).wf = true ∧ ({ windowBytes := 0, emptyProgress := .noCallback } : HostParams).wf = false ∧
    ({ windowBytes := 12, emptyProgress := .noCallback } : HostParams).wf = false ∧
    digestFits (List.replicate 32 0) = true ∧ digestFits (List.replicate 33 0) = false := by decide

/-! ### Decoding, words from R86 -/

theorem test_decode_nop : decode 0x00000000 = .ok .nop := by decide
theorem test_decode_zeroize : decode 0x0F000000 = .ok .zeroize := by decide
theorem test_decode_csched_e : decode 0x10010010 = .ok (.csched true 16) := by decide
theorem test_decode_csched_d : decode 0x10000010 = .ok (.csched false 16) := by decide
theorem test_decode_csinv : decode 0x11000000 = .ok .csinv := by decide
theorem test_decode_cblock : decode 0x12000003 = .ok (.cblock 3) := by decide
theorem test_decode_kgen : decode 0x20000080 = .ok (.kgen 128) := by decide
theorem test_decode_kpub : decode 0x21000000 = .ok .kpub := by decide
theorem test_decode_kminv : decode 0x22000000 = .ok .kminv := by decide
theorem test_decode_kenc : decode 0x23000010 = .ok (.kenc 16) := by decide
theorem test_decode_kdec : decode 0x24000001 = .ok (.kdec 1) := by decide
theorem test_decode_eldg : decode 0x30000000 = .ok .eldg := by decide
theorem test_decode_epadd : decode 0x31000000 = .ok .epadd := by decide
theorem test_decode_epmul : decode 0x32000000 = .ok .epmul := by decide
theorem test_decode_esinv : decode 0x33000000 = .ok .esinv := by decide
theorem test_decode_ekeygen : decode 0x34000000 = .ok .ekeygen := by decide
theorem test_decode_esign : decode 0x35000000 = .ok .esign := by decide
theorem test_decode_everify : decode 0x36000000 = .ok .everify := by decide

theorem test_decode_unassigned :
    decode 0x13000000 = .error .unassignedOpcode ∧ decode 0x01000000 = .error .unassignedOpcode ∧
    decode 0xFF000000 = .error .unassignedOpcode := by decide

theorem test_decode_reserved :
    decode 0x11000001 = .error .reservedBitSet ∧ decode 0x12010000 = .error .reservedBitSet ∧
    decode 0x10020010 = .error .reservedBitSet := by decide

theorem test_encode :
    encode (.csched true 15) = 0x1001000F ∧ encode (.cblock 56) = 0x12000038 ∧ encode (.kgen 8) = 0x20000008 ∧
    encode .zeroize = 0x0F000000 ∧ encode .everify = 0x36000000 := by decide

theorem test_decodeTableWord :
    decodeTableWord 32 0x12000038 = some (.cblock 56) ∧ decodeTableWord 32 0x13000000 = none := by decide

/-! ### Helpers: small states and what is looked at in an outcome -/

/-- What a next state holds. -/
def look {α : Type} (r : Result) (f : State → α) : Option α :=
  match r with
  | .next t => some (f t)
  | _ => none

/-- A key written (V17). -/
def keyed : State :=
  { State.reset with
    key := 0x00010002000300040005000600070008
    status := { Status.reset with keyv := true } }

/-- The encryption schedule of V17 loaded. -/
def scheduled : State :=
  { keyed with
    sk := keyExpand keyed.key
    status := { keyed.status with skv := true, skdir := true } }

/-- The block of V20 at offset 0. -/
def blockV20 : State := { scheduled with dbuf := [(3, 1), (5, 2), (7, 3)] }

/-- The random source with values ready (the RAND directive). -/
def withRand (vs : List Nat) (s : State) : State := { s with src := { rand := vs, fresh := 0 } }

/-- The key pair of V50. -/
def pairV50 : KnapRegs := keyPairRegs KnapRegs.reset 8 [1, 3, 7, 15, 27, 55, 111, 223] 501 100

/-- The key pair of V50 with the key byte A5. -/
def knapV50 : State := { State.reset with knap := { pairV50 with kkey := 0xA5000000000000000000000000000000 } }

/-- A curve small enough to check whole: `y^2 = x^3 + x + 6` modulo 11, of order 13, base point (2, 4). -/
def toyCurve : Curve := { p := 11, a := 1, b := 6, gx := 2, gy := 4, n := 13 }

/-- The reset state of a CORE with that curve. -/
def toy : State := { State.reset with cfg := { dbufBytes := 64, curve := toyCurve } }

/-- P and Q both the base point of that curve. -/
def toyPoints : State := { toy with ec := { toy.ec with epx := 2, epy := 4, eqx := 2, eqy := 4 } }

/-- `ED = 3`, `Q = 3 G = (8, 8)`, a digest, and the draw 5 ready. -/
def toySigner : State :=
  withRand [5] { toy with ec := { toy.ec with ed := 3, eqx := 8, eqy := 8, ee := 0x29 } }

/-! ### Control, port and protocol (95_test_vectors.md 2.7) -/

-- V111
theorem test_nop_status : look (step (State.reset.withFetchWord 32 0)) (fun t => t.status.word) = some 0x00000002 := by decide

-- V120
theorem test_illegal_word :
    look (step (State.reset.withFetchWord 32 0x13000000)) (fun t => (t.status.word, t.cmd)) =
      some (0x00010106, 0x13000000) := by decide

-- V121, `SK` and `STATUS` after ZEROIZE
theorem test_zeroize : look (exec .zeroize blockV20) (fun t => (t.status.word, elem t.sk 8, t.key, t.dbuf)) =
    some (0x00000002, 0, 0, []) := by decide +kernel

-- V110, V117, V118, V119
theorem test_read_id : (hostRead 0x00 0 State.reset).rdata = 0x43503037 := by decide
theorem test_bad_index : (hostRead 0x10 1 State.reset).status.word = 0x00040000 := by decide
theorem test_write_read_only : (hostWrite 0x11 0 5 State.reset).status.word = 0x00040000 := by decide
theorem test_undefined_select : (hostRead 0x40 0 State.reset).status.word = 0x00040000 := by decide

-- V112: a write while busy
theorem test_write_while_busy :
    (hostWrite 0x10 0 1 (hostWrite 0x01 0 0 State.reset)).status.word = 0x00020001 := by decide

-- V113, V122, V123
theorem test_key_write : (hostWrite 0x10 0 0 State.reset).status.word = 0x00000008 := by decide
theorem test_ctrl_write : (hostRead 0x03 0 (hostWrite 0x03 0 0xFFFFFFFF State.reset)).rdata = 1 := by decide
theorem test_eflags_write : (hostRead 0x39 0 (hostWrite 0x39 0 0xFF State.reset)).rdata = 3 := by decide

-- V114 then V116: the sticky bits cleared
theorem test_clear_sticky :
    look (exec (.cblock 0) State.reset) (fun t => ((hostWrite 0x02 0 0x00070000 t).status.word)) = some 0x00000406 := by
  decide

/-! ### Cipher -/

-- V9, V12, V13
theorem test_mul16 : mul16 0xFFFF 0xFFFF = 4 ∧ mul16 0x8000 0x8000 = 0xC001 ∧ mul16 0x1234 0x5678 = 0xFA3B := by decide
-- V15, V16
theorem test_inverses : addInv16 0x1234 = 0xEDCC ∧ mulInv16 0x1234 = 0x9E9A ∧ mulInv16 0x0400 = 0xFFC1 := by decide +kernel

-- V17
theorem test_csched_encrypt :
    look (exec (.csched true 16) keyed) (fun t => (elem t.sk 8, elem t.sk 51, t.status.word)) =
      some (0x0400, 0x0140, 0x0000003A) := by decide +kernel
-- V18
theorem test_csched_decrypt :
    look (exec (.csched false 16) keyed) (fun t => (elem t.sk 7, elem t.sk 8, elem t.sk 51, t.status.skdir)) =
      some (0x8000, 0xA000, 0xC001, false) := by decide +kernel
-- V18: CSINV after V17
theorem test_csinv :
    look (exec .csinv scheduled) (fun t => (elem t.sk 0, elem t.sk 4, elem t.sk 49, t.status.skdir)) =
      some (0xFE01, 0xC000, 0xFFFE, false) := by decide +kernel
-- V20
theorem test_cblock : look (exec (.cblock 0) blockV20) (fun t => (memRead t.dbuf 0 4, memRead t.dbuf 4 4)) =
    some (0x11FBED2B, 0x01986DE5) := by decide +kernel
-- V29: the first illegal offset
theorem test_cblock_range : look (exec (.cblock 57) blockV20) (fun t => t.status.errcode) = some 0x05 := by decide
-- V30
theorem test_csched_length : look (exec (.csched true 15) State.reset) (fun t => t.status.errcode) = some 0x02 := by decide

/-! ### Knapsack -/

-- V50
theorem test_kgen :
    look (exec (.kgen 8) (withRand [0, 1, 2, 3, 0, 1, 2, 3, 58, 3, 100] State.reset))
      (fun t => (t.knap.km, t.knap.ka, elem t.knap.kw 7, elem t.knap.kb 7, t.src.rand)) =
      some (501, 100, 223, 256, []) := by decide +kernel
-- V68
theorem test_kgen_length : look (exec (.kgen 12) State.reset) (fun t => (t.status.errcode, t.src.fresh)) = some (0x07, 0) := by
  decide
-- V51
theorem test_kpub : look (exec .kpub { knapV50 with knap := { pairV50 with ka := 2 } })
    (fun t => (elem t.knap.kb 6, elem t.knap.kb 7)) = some (222, 446) := by decide +kernel
-- V51
theorem test_kminv : look (exec .kminv knapV50) (fun t => t.knap.kinv) = some 496 := by decide +kernel
-- V68
theorem test_kminv_none : look (exec .kminv { knapV50 with knap := { pairV50 with ka := 3 } }) (fun t => t.status.errcode) =
    some 0x08 := by decide +kernel
-- V52
theorem test_kenc : look (exec (.kenc 1) knapV50) (fun t => t.knap.kc) = some 1045 := by decide +kernel
-- V52
theorem test_kdec : look (exec (.kdec 1) { knapV50 with knap := { pairV50 with kc := 1045 } })
    (fun t => (t.knap.kinv, t.knap.kkey)) = some (496, 0xA5000000000000000000000000000000) := by decide +kernel
-- V58
theorem test_kdec_no_total : look (exec (.kdec 1) { knapV50 with knap := { pairV50 with kc := 1 } })
    (fun t => (t.knap.kkey, t.status.err)) = some (0xFF000000000000000000000000000000, false) := by decide +kernel

/-! ### Curve -/

-- R166
theorem test_eldg : look (exec .eldg State.reset) (fun t => t.ec.epx) =
    some 0x188DA80EB03090F67CBF20EB43A18800F4FF0AFD82FF1012 := by decide +kernel
-- V82 (with V72): doubling
theorem test_epadd_double :
    look (exec .epadd { State.reset with ec := { State.reset.ec with
        epx := 0x188DA80EB03090F67CBF20EB43A18800F4FF0AFD82FF1012
        epy := 0x07192B95FFC8DA78631011ED6B24CDD573F977A11E794811
        eqx := 0x188DA80EB03090F67CBF20EB43A18800F4FF0AFD82FF1012
        eqy := 0x07192B95FFC8DA78631011ED6B24CDD573F977A11E794811 } }) (fun t => (t.ec.erx, t.ec.rinf)) =
      some (0xDAFEBF5828783F2AD35534631588A3F629A70FB16982A888, false) := by decide +kernel
-- V89a: the zero divisor
theorem test_epadd_zero_divisor :
    look (exec .epadd { State.reset with ec := { State.reset.ec with epx := 5, eqx := 5, eqy := 7 } })
      (fun t => t.status.errcode) = some 0x07 := by decide +kernel
-- V72
theorem test_epmul :
    look (exec .epmul { State.reset with ec := { State.reset.ec with
        ek := 2
        epx := 0x188DA80EB03090F67CBF20EB43A18800F4FF0AFD82FF1012
        epy := 0x07192B95FFC8DA78631011ED6B24CDD573F977A11E794811 } }) (fun t => t.ec.ery) =
      some 0xDD6BDA0D993DA0FA46B27BBC141B868F59331AFA5C7E93AB := by decide +kernel
-- V89b for EPMUL: a coordinate that is not below p
theorem test_epmul_coordinate :
    look (exec .epmul { State.reset with ec := { State.reset.ec with
        epx := 0xFFFFFFFFFFFFFFFFFFFFFFFFFFFFFFFEFFFFFFFFFFFFFFFF } }) (fun t => t.status.errcode) = some 0x07 := by
  decide +kernel
-- 2.6, ESINV of 3 and of n
theorem test_esinv : look (exec .esinv { State.reset with ec := { State.reset.ec with ek := 3 } }) (fun t => t.ec.einv) =
    some 0x555555555555555555555555334A52BCB179433B3C460D66 := by decide +kernel
theorem test_esinv_none : look (exec .esinv { State.reset with ec := { State.reset.ec with
    ek := 0xFFFFFFFFFFFFFFFFFFFFFFFF99DEF836146BC9B1B4D22831 } }) (fun t => t.status.errcode) = some 0x08 := by decide +kernel
-- V90
theorem test_ekeygen :
    look (exec .ekeygen (withRand [0x1A8D598FC15BF0FD89030B5CB1111AEB92AE8BAF5EA475FB] State.reset)) (fun t => t.ec.eqy) =
      some 0x63BF5EC08069705FFFF65E5CA5C0D69716DFCB3474373902 := by decide +kernel
-- V90
theorem test_esign :
    look (exec .esign (withRand [0xFA6DE29746BBEB7F8BB1E761F85F7DFB2983169D82FA2F4E]
      { State.reset with ec := { State.reset.ec with
          ed := 0x1A8D598FC15BF0FD89030B5CB1111AEB92AE8BAF5EA475FB
          ee := 0xBA7816BF8F01CFEA414140DE5DAE2223B00361A396177A9CB410FF61F20015AD } })) (fun t => t.ec.es) =
      some 0x848B88BC7813C1373C0938DE8389D0DAA29239D6F9F392DF := by decide +kernel
-- V98
theorem test_esign_range : look (exec .esign State.reset) (fun t => t.status.errcode) = some 0x07 := by decide +kernel
-- R174 on the small curve: what ESIGN makes, EVERIFY accepts
theorem test_everify_true :
    look (exec .esign toySigner) (fun t => look (exec .everify t) (fun u => u.status.vok)) = some (some true) := by
  decide +kernel
-- V92: `ER = 0` is false, not an error
theorem test_everify_range :
    look (exec .everify State.reset) (fun t => (t.status.vok, t.status.err)) = some (false, false) := by decide +kernel

/-! ### Script lines -/

-- R89
theorem test_wrblk :
    turnsOf (.wrblk 3 #v[1, 2, 3, 4, 5, 6, 7, 8]) =
      [.write 0x12 3 1, .write 0x12 4 2, .write 0x12 5 3, .write 0x12 6 4, .write 0x12 7 5, .write 0x12 8 6,
       .write 0x12 9 7, .write 0x12 10 8] := by decide

/-! ### Host software -/

-- S1, V42
theorem test_fold : fold [0x61, 0x62, 0x63] 16 = [0x61, 0x62, 0x63, 0, 0, 0, 0, 0, 0, 0, 0, 0, 0, 0, 0, 0] := by decide
-- R208: `41 42 00` comes back as `41 42`
theorem test_strip : stripZeros (padWindow [0x41, 0x42, 0x00]) = [0x41, 0x42] := by decide

/-- A session that never derived a schedule. -/
def noSchedule : Session := { iv := fold [0x61] 8, forEncryption := true, off := 0 }

-- R212, R220: a CORE error aborts the stream, and the CORE is left with the failed command's completion
theorem test_stream_abort :
    (let r := streamRun (HostParams.reference .oneCallback) { unreadable := [], unwritable := [] } [0x41] noSchedule State.reset
     (r.failure, r.core.status.errcode, r.core.status.serr, r.core.cmd, Memory.get r.core.dbuf 0, r.destination)) =
      (some (.coreError 0x04), 0x04, true, 0x12000000, 0x20, []) := by decide +kernel

/-! ### Witnesses: the hypotheses of the obligations can be met -/

theorem witness_DecodeOfEncode : (Instr.csched true 16).wellFormed = true ∧ (Instr.cblock 65535).wellFormed = true := by decide

theorem witness_LegalWordIsItsEncoding : decode 0x1200FFFF = .ok (.cblock 65535) := by decide

theorem witness_LegalIffMatchesRow :
    (0x1200FFFF : CmdWord) &&& (matchMask (.cblock 0)).2 = (matchMask (.cblock 0)).1 := by decide

/-- A command in flight. -/
def inFlight (w : CmdWord) (agenda : List Turn) : State := { issue w State.reset with agenda := agenda }

theorem witness_StepRunsTheDecodedCommand :
    (inFlight 0x12000000 [.core]).status.busy = true ∧ decode (inFlight 0x12000000 [.core]).cmdl = .ok (.cblock 0) ∧
    (inFlight 0x12000000 [.wait]).status.done = false ∧ (inFlight 0x12000000 [.wait]).agenda = [.wait] ∧
    (inFlight 0x12000000 []).agenda = [] := by decide

theorem witness_StepRunsTheDecodedCommand_hostTurns :
    (inFlight 0 [.read 0x02 0]).agenda = [.read 0x02 0] ∧ (inFlight 0 [.write 0x10 0 1]).agenda = [.write 0x10 0 1] ∧
    (inFlight 0 [.rand [1, 2]]).agenda = [.rand [1, 2]] ∧
    look (step (inFlight 0 [.core, .wait])) (fun t => (t.agenda, t.status.done)) = some ([.wait], true) := by decide

theorem witness_IllegalWordCompletes :
    (inFlight 0x13000000 [.core]).status.busy = true ∧
    decode (inFlight 0x13000000 [.core]).cmdl = .error .unassignedOpcode ∧ (inFlight 0x13000000 []).agenda = [] ∧
    (inFlight 0x13000000 [.core]).agenda = [.core] ∧ (inFlight 0x13000000 [.wait]).agenda = [.wait] ∧
    (inFlight 0x13000000 [.wait]).status.done = false := by decide

theorem witness_IdleCoreHoldsState : State.reset.status.busy = false ∧ State.reset.agenda = [] := by decide

theorem witness_IssueLatchesAnyWord :
    State.reset.status.busy = false ∧ ({ State.reset with agenda := [.write 0x01 0 0xFF000000] } : State).agenda =
      [.write 0x01 0 ((0xFF000000 : CmdWord).setWidth 256)] := by decide

theorem witness_WriteWhileBusyIsDropped :
    (inFlight 0 []).status.busy = true ∧ badWrite (inFlight 0 []).cfg 0x10 0 = false ∧
    badWrite (inFlight 0 []).cfg 0x11 0 = true := by decide

theorem witness_ReadsWhileBusy :
    (inFlight 0 []).status.busy = true ∧ locate (inFlight 0 []).cfg 0x11 51 = some .sk ∧
    Reg.sk ∉ [Reg.id, Reg.cmd, Reg.status, Reg.ctrl] := by decide

theorem witness_BadAccessIsDropped :
    regOf 0x40 = none ∧ regOf 0x11 = some .sk ∧ elements State.reset.cfg .sk ≤ (52 : BitVec 16).toNat ∧
    regOf 0x12 = some .dbuf ∧ elements State.reset.cfg .dbuf ≤ (64 : BitVec 16).toNat ∧ regOf 0x3C = some .einv := by decide

theorem witness_WrittenRegisterReadsBack :
    State.reset.status.busy = false ∧ Memory.wf State.reset.dbuf = true ∧
    locate State.reset.cfg 0x21 127 = some .kw ∧ readOnly .kw = false ∧
    Reg.kw ∉ [Reg.cmd, Reg.status, Reg.ctrl, Reg.eflags] ∧ locate State.reset.cfg 0x21 126 = some .kw ∧
    locate State.reset.cfg 0x12 63 = some .dbuf ∧ readOnly .dbuf = false ∧ (127 : BitVec 16).toNat < 128 ∧
    (51 : BitVec 16).toNat < 52 ∧ (63 : BitVec 16).toNat < State.reset.cfg.dbufBytes ∧
    (∀ row ∈ selectTable State.reset.cfg, row.sel ≠ 0x3D) := by decide

theorem witness_KeyWriteSetsKeyv : State.reset.status.busy = false := by decide

theorem witness_StatusLayoutAndWriteOneClear : State.reset.status.busy = false ∧ blockV20.status.busy = false := by decide

theorem witness_CtrlAndEflagsWrites : State.reset.status.busy = false ∧ toyPoints.status.busy = false := by decide

theorem witness_FirstCommandAfterReset :
    Config.default.wf = true ∧ 56 + 8 ≤ Config.default.dbufBytes ∧ (1 : Nat) ≠ 0 ∧ (65535 : Nat) ≠ 0 := by decide +kernel

theorem witness_CommandsThatNeverFail :
    Instr.nop ∈ [Instr.nop, .zeroize, .eldg, .ekeygen, .everify] ∧
    Instr.everify ∈ [Instr.nop, .zeroize, .eldg, .ekeygen, .everify] := by decide

theorem witness_InterruptFollowsDone : ∃ t, exec .nop State.reset = .next t := ⟨_, rfl⟩

theorem witness_ResetReadsZero :
    ({ blockV20 with agenda := [.reset] } : State).agenda = [.reset] ∧ locate blockV20.cfg 0x00 0 = some .id ∧
    locate blockV20.cfg 0x12 63 = some .dbuf := by decide

theorem witness_CompletionIsPrecise :
    (look (exec .nop State.reset) (fun t => t.status.err) = some false) ∧
    (look (exec .csinv State.reset) (fun t => t.status.err) = some true) := by decide

theorem witness_CipherErrorsInOrder :
    (15 : Nat) ≠ 16 ∧ State.reset.status.keyv = false ∧ State.reset.status.skv = false ∧
    State.reset.cfg.dbufBytes < 57 + 8 ∧ 56 + 8 ≤ State.reset.cfg.dbufBytes := by decide

theorem witness_KnapsackErrorsInOrder :
    12 ∉ [8, 16, 24, 32, 40, 48, 56, 64, 72, 80, 88, 96, 104, 112, 120, 128] ∧
    State.reset.knap.klen.toNat ∉ [8, 16, 24, 32, 40, 48, 56, 64, 72, 80, 88, 96, 104, 112, 120, 128] ∧
    ¬ 2 ≤ State.reset.knap.ka.toNat ∧ 8 * 0 = State.reset.knap.klen.toNat ∧ 8 * 2 ≠ knapV50.knap.klen.toNat ∧
    8 * 1 = knapV50.knap.klen.toNat ∧
    ({ pairV50 with ka := 3 } : KnapRegs).ka.toNat < ({ pairV50 with ka := 3 } : KnapRegs).km.toNat ∧
    Nat.gcd ({ pairV50 with ka := 3 } : KnapRegs).ka.toNat ({ pairV50 with ka := 3 } : KnapRegs).km.toNat ≠ 1 := by
  decide +kernel

/-- P and Q with equal x on the small curve's field, neither equal nor opposite: a zero divisor (as V89a). -/
def toyDivisor : State := { toy with ec := { toy.ec with epx := 5, epy := 0, eqx := 5, eqy := 7 } }

/-- The operand `P` with a coordinate that is not below `p`. -/
def toyTooLarge : State := { toy with ec := { toy.ec with epx := 11 } }

/-- The integers modulo 9, no field: there a multiple of the pair (0, 3) divides by zero. -/
def noField : State :=
  { toy with cfg := { toy.cfg with curve := { toyCurve with p := 9, a := 2 } }, ec := { toy.ec with epy := 3, ek := 11 } }

theorem witness_scalarMul_divides_by_zero :
    scalarMul noField.cfg.curve noField.ec.ek.toNat (pointP noField.ec) = none := by decide +kernel

theorem witness_CurveErrorsInOrder :
    toyTooLarge.ec.pinf = false ∧ toyTooLarge.cfg.curve.p ≤ toyTooLarge.ec.epx.toNat ∧
    ({ toy.ec with eqy := 11 } : CurveRegs).qinf = false ∧ toy.cfg.curve.p ≤ ({ toy.ec with eqy := 11 } : CurveRegs).eqy.toNat ∧
    Nat.gcd (toy.ec.ek.toNat % toy.cfg.curve.n) toy.cfg.curve.n ≠ 1 ∧ toy.ec.ed.toNat = 0 ∧
    toy.cfg.curve.n ≤ ({ toy.ec with ed := 13 } : CurveRegs).ed.toNat := by decide

theorem witness_zero_divisor : ZeroDivisor toyDivisor.cfg.curve (pointP toyDivisor.ec) (pointQ toyDivisor.ec) := by
  change (5 : Nat) = 5 ∧ (0 + 7) % 11 ≠ 0 ∧ 2 * 0 % 11 = 0
  decide

theorem witness_StepKeepsInvariant : Inv blockV20 = true ∧ ∃ t, step (inFlight 0 []) = .next t ∧ Inv (inFlight 0 []) = true :=
  ⟨by decide +kernel, _, rfl, by decide +kernel⟩

theorem witness_StepKeepsConfiguration : ∃ t, step State.reset = .next t := ⟨_, rfl⟩

theorem witness_OnlySuccessfulGeneratorsDraw :
    look (exec .ekeygen (withRand [1] toy)) (fun t => decide (t.src ≠ (withRand [1] toy).src)) = some true := by decide +kernel

theorem witness_WritersOfEachRegister : ∃ t, exec (.cblock 0) blockV20 = .next t := ⟨_, rfl⟩

theorem witness_CschedCompletes : keyed.status.keyv = true := by decide
theorem witness_CsinvCompletes : scheduled.status.skv = true := by decide

theorem witness_CblockCompletes :
    56 + 8 ≤ blockV20.cfg.dbufBytes ∧ blockV20.status.skv = true ∧ Memory.wf blockV20.dbuf = true := by decide

theorem witness_BlockTransformIsBijective :
    0 + 8 ≤ blockV20.cfg.dbufBytes ∧ blockV20.status.skv = true ∧ Memory.wf blockV20.dbuf = true := by decide

theorem witness_ZeroizeCompletes :
    locate blockV20.cfg 0x12 63 = some .dbuf ∧ Reg.dbuf ∉ [Reg.id, Reg.cmd, Reg.status, Reg.ctrl] ∧
    56 + 8 ≤ blockV20.cfg.dbufBytes := by decide

theorem witness_EncryptThenDecryptRestores :
    blockV20.status.keyv = true ∧ 3 + 8 ≤ blockV20.cfg.dbufBytes ∧ Memory.wf blockV20.dbuf = true := by decide

theorem witness_KgenMakesAKeyPair : legalLength 8 = true ∧ legalLength 128 = true := by decide

/-- The draws of V50 meet the clauses of `KgenMakesAKeyPair` on ready values: sum 442, modulus 501, candidate 3 rejected. -/
theorem witness_KgenMakesAKeyPair_ready :
    ([0, 1, 2, 3, 0, 1, 2, 3, 58, 3, 100] : List Nat)[7]? = some 3 ∧ (3 : Nat) ≤ 3 ∧
    ([0, 1, 2, 3, 0, 1, 2, 3, 58, 3, 100] : List Nat)[8]? = some 58 ∧ (58 : Nat) ≤ 442 - 1 ∧
    ([0, 1, 2, 3, 0, 1, 2, 3, 58, 3, 100] : List Nat).drop (8 + 1) = [3] ++ 100 :: [] ∧
    Nat.gcd 3 501 ≠ 1 ∧ 100 ≤ 501 - 1 ∧ Nat.gcd 100 501 = 1 := by decide

theorem witness_KpubCompletes :
    legalLength knapV50.knap.klen.toNat = true ∧ 2 ≤ knapV50.knap.ka.toNat ∧ knapV50.knap.ka.toNat < knapV50.knap.km.toNat := by
  decide

theorem witness_KminvCompletes :
    2 ≤ knapV50.knap.ka.toNat ∧ knapV50.knap.ka.toNat < knapV50.knap.km.toNat ∧
    Nat.gcd knapV50.knap.ka.toNat knapV50.knap.km.toNat = 1 := by decide +kernel

theorem witness_KencCompletes : 8 * 1 = knapV50.knap.klen.toNat ∧ legalLength knapV50.knap.klen.toNat = true := by decide

theorem witness_KdecCompletes :
    8 * 1 = knapV50.knap.klen.toNat ∧ legalLength knapV50.knap.klen.toNat = true ∧ 2 ≤ knapV50.knap.ka.toNat ∧
    knapV50.knap.ka.toNat < knapV50.knap.km.toNat ∧ Nat.gcd knapV50.knap.ka.toNat knapV50.knap.km.toNat = 1 := by
  decide +kernel

theorem witness_EncapsulateThenDecapsulate : IsKeyPair knapV50.knap ∧ 8 * 1 = knapV50.knap.klen.toNat := by
  unfold IsKeyPair
  decide +kernel

theorem toyCurve_legal : Curve.Legal toyCurve := by
  refine ⟨by decide, by norm_num [toyCurve], by norm_num [toyCurve], by decide +kernel, ?_⟩
  intro k h0 hn
  change k < 13 at hn
  interval_cases k <;> decide +kernel

theorem witness_EldgCompletes : toy.cfg.wf = true ∧ State.reset.cfg.wf = true := by decide +kernel

theorem witness_PointAddByCases :
    Nat.Prime toyCurve.p ∧ 3 < toyCurve.p ∧ (2 : Nat) < toyCurve.p ∧ (4 + 7) % toyCurve.p = 0 ∧
    ¬ ((4 + 4) % toyCurve.p = 0) := by
  refine ⟨by norm_num [toyCurve], ?_⟩
  decide

theorem witness_PointAddStaysOnCurve : OnCurve toyCurve (.affine 2 4) ∧ OnCurve toyCurve .infinity ∧ OnCurve toyCurve (.affine 5 9) := by
  unfold OnCurve
  decide

theorem witness_EpaddCompletes :
    toyPoints.cfg.wf = true ∧ Nat.Prime toyPoints.cfg.curve.p ∧ toyPoints.ec.epx.toNat < toyPoints.cfg.curve.p ∧
    toyPoints.ec.epy.toNat < toyPoints.cfg.curve.p ∧ toyPoints.ec.eqx.toNat < toyPoints.cfg.curve.p ∧
    toyPoints.ec.eqy.toNat < toyPoints.cfg.curve.p ∧
    ¬ ZeroDivisor toyPoints.cfg.curve (pointP toyPoints.ec) (pointQ toyPoints.ec) := by
  refine ⟨by decide, toyCurve_legal.2.1, by decide, by decide, by decide, by decide, ?_⟩
  change ¬ ((2 : Nat) = 2 ∧ (4 + 4) % 11 ≠ 0 ∧ 2 * 4 % 11 = 0)
  decide

theorem witness_EpmulCompletes :
    toyPoints.cfg.wf = true ∧ Nat.Prime toyPoints.cfg.curve.p ∧ OnCurve toyPoints.cfg.curve (pointP toyPoints.ec) := by
  refine ⟨by decide, toyCurve_legal.2.1, ?_⟩
  change (2 : Nat) < 11 ∧ 4 < 11 ∧ 4 * 4 % 11 = (2 ^ 3 + 1 * 2 + 6) % 11
  decide

/-- (1, 1) is off the small curve. -/
def toyOff : State := { toy with ec := { toy.ec with epx := 1, epy := 1, ek := 2 } }

theorem witness_EpmulCompletesOffCurve :
    toyOff.cfg.wf = true ∧ Nat.Prime toyOff.cfg.curve.p ∧ toyOff.ec.epx.toNat < toyOff.cfg.curve.p ∧
    toyOff.ec.epy.toNat < toyOff.cfg.curve.p := by
  refine ⟨by decide, toyCurve_legal.2.1, by decide, by decide⟩

theorem witness_ScalarMulIsTheMultiple :
    Nat.Prime toyCurve.p ∧ toyCurve.wf = true ∧ OnCurve toyCurve (.affine 2 4) ∧ 12 + 1 < 2 ^ 192 :=
  ⟨toyCurve_legal.2.1, by decide, by unfold OnCurve; decide, by decide⟩

theorem witness_EsinvCompletes :
    toy.cfg.wf = true ∧ Nat.gcd (5 % toy.cfg.curve.n) toy.cfg.curve.n = 1 ∧ Nat.Prime toy.cfg.curve.n ∧
    ({ toy.ec with ek := 5 } : CurveRegs).ek.toNat % toy.cfg.curve.n ≠ 0 :=
  ⟨by decide, by decide, toyCurve_legal.2.2.1, by decide⟩

theorem witness_EkeygenCompletes :
    toy.cfg.wf = true ∧ Curve.Legal toy.cfg.curve ∧ (withRand [5, 6] toy).src.rand = 5 :: [6] ∧ 1 ≤ 5 ∧
    5 ≤ toy.cfg.curve.n - 1 :=
  ⟨by decide, toyCurve_legal, by decide, by decide, by decide⟩

theorem witness_EsignCompletes :
    toySigner.cfg.wf = true ∧ Nat.Prime toySigner.cfg.curve.n ∧ 1 ≤ toySigner.ec.ed.toNat ∧
    toySigner.ec.ed.toNat ≤ toySigner.cfg.curve.n - 1 ∧
    ∃ k, 1 ≤ k ∧ k ≤ toySigner.cfg.curve.n - 1 ∧ signWith toySigner k ≠ none :=
  ⟨by decide, toyCurve_legal.2.2.1, by decide, by decide, 5, by decide, by decide, by decide +kernel⟩

/-- `k` and a ready list as in the last clause of `EsignCompletes`: on the small curve, `x` of `3 G` is 8, so for the digest
scalar `13 - 8` and `ED = 1` the draw 3 is degenerate (`s = 0`) and the next one, 5, is taken. -/
def toyResigner : State := withRand [3, 5] { toy with ec := { toy.ec with ed := 1, ee := 5 } }

theorem witness_EsignCompletes_ready :
    toyResigner.src.rand = [3] ++ 5 :: [] ∧ signWith toyResigner 3 = none ∧ signWith toyResigner 5 ≠ none ∧
    1 ≤ 3 ∧ 5 ≤ toyResigner.cfg.curve.n - 1 := by decide +kernel

theorem witness_EverifyCompletes :
    toySigner.cfg.wf = true ∧ Nat.Prime toySigner.cfg.curve.n ∧ toy.ec.er.toNat = 0 ∧
    0 < ({ toySigner.ec with er := 3, es := 12 } : CurveRegs).er.toNat ∧
    ({ toySigner.ec with er := 3, es := 12 } : CurveRegs).es.toNat < toySigner.cfg.curve.n ∧
    toySigner.ec.qinf = false ∧ toySigner.ec.eqx.toNat < toySigner.cfg.curve.p ∧
    toySigner.ec.eqy.toNat < toySigner.cfg.curve.p :=
  ⟨by decide, toyCurve_legal.2.2.1, by decide, by decide, by decide, by decide, by decide, by decide⟩

theorem witness_SignThenVerify :
    Curve.Legal toySigner.cfg.curve ∧ 1 ≤ toySigner.ec.ed.toNat ∧ toySigner.ec.ed.toNat ≤ toySigner.cfg.curve.n - 1 ∧
    toySigner.ec.qinf = false ∧
    scalarMul toySigner.cfg.curve toySigner.ec.ed.toNat (basePoint toySigner.cfg.curve) = some (pointQ toySigner.ec) ∧
    (look (exec .esign toySigner) (fun _ => true) = some true) :=
  ⟨toyCurve_legal, by decide, by decide, by decide, by decide +kernel, by decide +kernel⟩

theorem witness_FoldXorsByResidue : 0 < 16 ∧ 15 < 16 := by decide

theorem witness_StripUndoesPadding : ([0x41, 0x42] : List Byte).getLast? ≠ some 0 := by decide

end Sys2Proof.Tests
end

/-! ## Proofs: what a command and a turn can do (spec/60_exceptions.md R220, spec/00_scope.md R7, R15) -/

namespace Sys2Proof.Machine

/-! ### How a command ends -/

/-- R220: if `r` is a next state, it is the error completion of `s`, or the success of a state of `W`. -/
def EndsIn (W : State → Prop) (s : State) (r : Result) : Prop :=
  ∀ t, r = .next t → (∃ e, t = { s with status := s.status.failed e }) ∨
    ∃ u, W u ∧ t = { u with status := u.status.completed }

theorem EndsIn.raise {W : State → Prop} {s : State} (e : CmdError) : EndsIn W s (raise e s) :=
  fun t h => .inl ⟨e, (raise_eq_next e s t).1 h⟩

theorem EndsIn.succeed {W : State → Prop} {s u : State} (hu : W u) : EndsIn W s (succeed u) :=
  fun t h => .inr ⟨u, hu, (succeed_eq_next u t).1 h⟩

/-- R223: an operand check before the rest of a command. -/
theorem EndsIn.check {W : State → Prop} {s : State} {c : Prop} [Decidable c] {e : CmdError} {r : Result}
    (h : EndsIn W s r) : EndsIn W s (if c then Machine.raise e s else r) := by
  split
  · exact .raise e
  · exact h

/-- R15, R142, R170, R172: the commands that draw from the random source. -/
def Draws (i : Instr) : Prop := i = .ekeygen ∨ i = .esign ∨ ∃ n, i = .kgen n

/-- What the writes of a command, before its completion bits, leave alone: the host's side, the completion bits, and the
random source unless the command draws. -/
def WritesKeep (i : Instr) (s u : State) : Prop :=
  HostSideKept s u ∧ u.status.serr = s.status.serr ∧ (u.src = s.src ∨ Draws i)

/-- Writing the data registers and the flags that are no completion bits keeps the rest. -/
theorem writesKeep_update {i : Instr} {s : State} {key : BitVec 128} {sk : Vector Word16 52} {dbuf : Memory}
    {knap : KnapRegs} {ec : CurveRegs} {src : Source} {keyv skv skdir vok : Bool} (hsrc : src = s.src ∨ Draws i) :
    WritesKeep i s { s with
      key := key, sk := sk, dbuf := dbuf, knap := knap, ec := ec, src := src
      status := { s.status with keyv := keyv, skv := skv, skdir := skdir, vok := vok } } :=
  ⟨⟨rfl, rfl, rfl, rfl, rfl, rfl, rfl, rfl⟩, rfl, hsrc⟩

/-- R220: every command that ends in a next state is an error completion, or a success after its writes. -/
theorem exec_endsIn (i : Instr) (s : State) : EndsIn (WritesKeep i s) s (exec i s) := by
  cases i with
  | nop => exact .succeed (writesKeep_update (.inl rfl))
  | zeroize => exact .succeed (writesKeep_update (.inl rfl))
  | csched e imm => exact .check (.check (.succeed (writesKeep_update (.inl rfl))))
  | csinv => exact .check (.succeed (writesKeep_update (.inl rfl)))
  | cblock imm => exact .check (.check (.succeed (writesKeep_update (.inl rfl))))
  | kgen imm => exact .check (.succeed (writesKeep_update (.inr (.inr (.inr ⟨imm, rfl⟩)))))
  | kpub => exact .check (.check (.succeed (writesKeep_update (.inl rfl))))
  | kminv => exact .check (.check (.succeed (writesKeep_update (.inl rfl))))
  | kenc imm => exact .check (.check (.succeed (writesKeep_update (.inl rfl))))
  | kdec imm => exact .check (.check (.check (.check (.succeed (writesKeep_update (.inl rfl))))))
  | eldg => exact .succeed (writesKeep_update (.inl rfl))
  | epadd =>
    refine .check (.check ?_)
    split
    · exact .raise _
    · exact .succeed (writesKeep_update (.inl rfl))
  | epmul =>
    refine .check ?_
    split
    · exact .raise _
    · exact .succeed (writesKeep_update (.inl rfl))
  | esinv => exact .check (.succeed (writesKeep_update (.inl rfl)))
  | ekeygen => exact .succeed (writesKeep_update (.inr (.inl rfl)))
  | esign =>
    refine .check ?_
    split
    · exact fun t h => nomatch h
    · exact .succeed (writesKeep_update (.inr (.inr (.inl rfl))))
  | everify => exact .succeed (writesKeep_update (.inl rfl))

/-- A command that ends in a next state leaves the host's side as it was (R38). -/
theorem exec_hostSideKept {i : Instr} {s t : State} (h : exec i s = .next t) : HostSideKept s t := by
  obtain ⟨e, rfl⟩ | ⟨u, ⟨hside, -, -⟩, rfl⟩ := exec_endsIn i s t h
  · exact ⟨rfl, rfl, rfl, rfl, rfl, rfl, rfl, rfl⟩
  · exact hside

/-- Settles O28: a failure keeps the whole source, and a success that does not draw keeps it too. -/
theorem onlySuccessfulGeneratorsDraw : Obligations.OnlySuccessfulGeneratorsDraw := by
  intro i s t h hsrc
  obtain ⟨e, rfl⟩ | ⟨u, ⟨-, -, hdraws⟩, rfl⟩ := exec_endsIn i s t h
  · exact absurd rfl hsrc
  · exact ⟨rfl, hdraws.resolve_left hsrc⟩

/-! ### The parameters under a turn (R8, R160) -/

@[simp] theorem writeReg_cfg (r : Reg) (i : Nat) (v : BitVec 256) (s : State) : (writeReg r i v s).cfg = s.cfg := by
  cases r <;> rfl

@[simp] theorem hostWrite_cfg (sel : BitVec 8) (idx : BitVec 16) (v : BitVec 256) (s : State) :
    (hostWrite sel idx v s).cfg = s.cfg := by
  unfold hostWrite
  split
  · exact markDropped_cfg ..
  · split
    · rfl
    · exact writeReg_cfg ..

@[simp] theorem hostRead_cfg (sel : BitVec 8) (idx : BitVec 16) (s : State) : (hostRead sel idx s).cfg = s.cfg := by
  unfold hostRead
  split
  · rfl
  · split <;> rfl

/-- R253: the CORE's turn holds the state of an idle CORE, runs the decoded command, or refuses an illegal word. -/
theorem coreTurn_cases {s t : State} (h : coreTurn s = .next t) :
    (s.status.busy = false ∧ t = s) ∨ (s.status.busy = true ∧ ∃ i, decode s.cmdl = .ok i ∧ exec i s = .next t) ∨
    (s.status.busy = true ∧ (∃ e, decode s.cmdl = .error e) ∧
      t = { s with status := s.status.failed .illegalCommand }) := by
  unfold coreTurn at h
  split at h
  · next hbusy =>
    unfold complete at h
    split at h
    · next i hi => exact .inr (.inl ⟨hbusy, i, hi, h⟩)
    · next e he => exact .inr (.inr ⟨hbusy, ⟨e, he⟩, (raise_eq_next _ _ _).1 h⟩)
  · next hidle =>
    cases h
    exact .inl ⟨Bool.eq_false_of_not_eq_true hidle, rfl⟩

theorem coreTurn_cfg {s t : State} (h : coreTurn s = .next t) : t.cfg = s.cfg := by
  obtain ⟨-, rfl⟩ | ⟨-, i, -, hi⟩ | ⟨-, -, rfl⟩ := coreTurn_cases h
  · rfl
  · exact (exec_hostSideKept hi).1
  · rfl

theorem takeTurn_cfg {turn : Turn} {rest : List Turn} {s t : State} (h : takeTurn turn rest s = .next t) :
    t.cfg = s.cfg := by
  cases turn with
  | read sel idx => cases h; exact hostRead_cfg ..
  | write sel idx v => cases h; exact hostWrite_cfg ..
  | wait =>
    change waitTurn rest s = .next t at h
    unfold waitTurn at h
    split at h
    · cases h; exact hostRead_cfg ..
    · exact coreTurn_cfg h
  | core => exact coreTurn_cfg (s := { s with agenda := rest }) h
  | reset => cases h; rfl
  | rand vs => cases h; rfl

/-- Settles O27: the next turn is the CORE's or the head of the agenda, and neither writes the parameters. -/
theorem stepKeepsConfiguration : Obligations.StepKeepsConfiguration := by
  intro s t h
  change nextTurn s = .next t at h
  unfold nextTurn at h
  split at h
  · exact coreTurn_cfg h
  · exact takeTurn_cfg h

end Sys2Proof.Machine

/-! ## Proofs: the cipher's block in `DBUF` (spec/00_scope.md R13, spec/41_cipher_block.md R120, R123) -/

namespace Sys2Proof.Machine

/-- MemRead depends on the bytes of its range alone. -/
theorem memRead_congr {m m' : Memory} {addr : Nat} (n : Nat)
    (h : ∀ a, addr ≤ a → a < addr + n → Memory.get m a = Memory.get m' a) : memRead m addr n = memRead m' addr n := by
  induction n with
  | zero => rfl
  | succ n ih =>
    rw [memRead, memRead, ih fun a h1 h2 => h a h1 (by omega), h (addr + n) (by omega) (by omega)]

/-- A MemRead apart from a MemWrite's range does not see it. -/
theorem memRead_memWrite_other (m : Memory) {addr n a k : Nat} (v : Nat) (h : a + k ≤ addr ∨ addr + n ≤ a) :
    memRead (memWrite m addr n v) a k = memRead m a k :=
  memRead_congr k fun b _ _ => memWrite_get_other n m addr v b (by omega)

/-- A MemRead of what a MemWrite wrote is its value, as much of it as the range holds. -/
theorem memRead_memWrite_same (n : Nat) : ∀ (m : Memory) (addr v : Nat), Memory.wf m = true →
    memRead (memWrite m addr n v) addr n = v % 256 ^ n := by
  induction n with
  | zero => intro m addr v _; simp [memRead, Nat.mod_one]
  | succ n ih =>
    intro m addr v h
    have hlast : Memory.get (memWrite m addr (n + 1) v) (addr + n) = BitVec.ofNat 8 v :=
      Memory.get_set_same _ _ _ (memWrite_wf n m addr (v / 256) h)
    have hfirst : memRead (memWrite m addr (n + 1) v) addr n = v / 256 % 256 ^ n := by
      rw [← ih m addr (v / 256) h]
      exact memRead_congr n fun a _ ha => Memory.get_set_other _ _ _ _ (by omega)
    rw [memRead, hlast, hfirst, BitVec.toNat_ofNat, pow_succ' 256 n, Nat.mod_mul, Nat.mul_comm, Nat.add_comm]

/-- A 16-bit word written at an address is the word read there. -/
theorem ofNat_memRead_memWrite_word {m : Memory} (h : Memory.wf m = true) (addr : Nat) (x : Word16) :
    BitVec.ofNat 16 (memRead (memWrite m addr 2 x.toNat) addr 2) = x := by
  rw [memRead_memWrite_same 2 m addr _ h, Nat.mod_eq_of_lt (b := 256 ^ 2) x.isLt, BitVec.ofNat_toNat, BitVec.setWidth_eq]

/-- R123: the block stored is the block loaded. -/
theorem loadBlock_storeBlock {m : Memory} (h : Memory.wf m = true) (off : Nat) (b : Block) :
    loadBlock (storeBlock m off b) off = b := by
  have h1 := memWrite_wf 2 m off b.x1.toNat h
  have h2 := memWrite_wf 2 _ (off + 2) b.x2.toNat h1
  have h3 := memWrite_wf 2 _ (off + 4) b.x3.toNat h2
  unfold loadBlock storeBlock
  congr 1
  · rw [memRead_memWrite_other _ _ (by omega), memRead_memWrite_other _ _ (by omega),
      memRead_memWrite_other _ _ (by omega), ofNat_memRead_memWrite_word h]
  · rw [memRead_memWrite_other _ _ (by omega), memRead_memWrite_other _ _ (by omega), ofNat_memRead_memWrite_word h1]
  · rw [memRead_memWrite_other _ _ (by omega), ofNat_memRead_memWrite_word h2]
  · exact ofNat_memRead_memWrite_word h3 _ _

/-- Storing a block leaves every byte outside its eight alone. -/
theorem storeBlock_get_other (m : Memory) {off a : Nat} (b : Block) (h : a < off ∨ off + 8 ≤ a) :
    Memory.get (storeBlock m off b) a = Memory.get m a := by
  unfold storeBlock
  rw [memWrite_get_other _ _ _ _ _ (by omega), memWrite_get_other _ _ _ _ _ (by omega),
    memWrite_get_other _ _ _ _ _ (by omega), memWrite_get_other _ _ _ _ _ (by omega)]

/-- R13: a word of two bytes is big-endian. -/
theorem memRead_two (m : Memory) (addr : Nat) :
    memRead m addr 2 = (Memory.get m addr).toNat * 256 + (Memory.get m (addr + 1)).toNat := by
  simp [memRead]

/-- R123: `CBLOCK` at a legal offset with a schedule. -/
theorem exec_cblock {s : State} {off : Nat} (hoff : off + 8 ≤ s.cfg.dbufBytes) (hskv : s.status.skv = true) :
    exec (.cblock off) s = .next { s with
      dbuf := storeBlock s.dbuf off (cipherBlock s.sk (loadBlock s.dbuf off))
      status := doneStatus s.status } := by
  change execCblock off s = _
  rw [execCblock, if_neg (by omega), if_neg (by simp [hskv])]
  rfl

/-- Settles O38: the block stored by `CBLOCK` is read back whole, and the store touches its eight bytes alone. -/
theorem cblockCompletes : Obligations.CblockCompletes := by
  intro s off hoff hskv hwf
  exact ⟨_, exec_cblock hoff hskv, rfl, fun a ha => storeBlock_get_other _ _ ha, loadBlock_storeBlock hwf off _,
    fun k _ => memRead_two _ _, storeBlock_wf _ off _ hwf⟩

end Sys2Proof.Machine

/-! ## Proofs: the inverses that `KMINV` and `ESINV` write (spec/00_scope.md R16) -/

namespace Sys2Proof.Machine

/-- R16: an inverse modulo a register-sized modulus fits its register, and inverts there. -/
theorem ofNat_modInv_spec (w : Nat) {a m : Nat} (hm : 2 ≤ m) (hfit : m < 2 ^ w) (hg : Nat.gcd (a % m) m = 1) :
    1 ≤ (BitVec.ofNat w (modInv a m)).toNat ∧ (BitVec.ofNat w (modInv a m)).toNat < m ∧
      a * (BitVec.ofNat w (modInv a m)).toNat % m = 1 := by
  obtain ⟨hpos, hlt, hinv⟩ := modInv_spec a m hm hg
  rw [BitVec.toNat_ofNat, Nat.mod_eq_of_lt (hlt.trans hfit)]
  exact ⟨hpos, hlt, hinv⟩

/-- R144: `KINV` after `KMINV` with an invertible multiplier in range. -/
theorem multiplierInverse_spec {r : KnapRegs} (h2 : 2 ≤ r.ka.toNat) (hlt : r.ka.toNat < r.km.toNat)
    (hg : Nat.gcd r.ka.toNat r.km.toNat = 1) :
    1 ≤ (multiplierInverse r).toNat ∧ (multiplierInverse r).toNat < r.km.toNat ∧
      r.ka.toNat * (multiplierInverse r).toNat % r.km.toNat = 1 :=
  ofNat_modInv_spec 136 (by omega) r.km.isLt (by rwa [Nat.mod_eq_of_lt hlt])

/-- R144: `KMINV` with an invertible multiplier in range. -/
theorem exec_kminv {s : State} (h2 : 2 ≤ s.knap.ka.toNat) (hlt : s.knap.ka.toNat < s.knap.km.toNat)
    (hg : Nat.gcd s.knap.ka.toNat s.knap.km.toNat = 1) :
    exec .kminv s = .next { s with
      knap := { s.knap with kinv := multiplierInverse s.knap }
      status := doneStatus s.status } := by
  change execKminv s = _
  rw [execKminv, if_neg (by simp [multiplierInRange, h2, hlt]), if_neg (by simp [multiplierInvertible, hg])]
  rfl

/-- Settles O43: by the specification of the modular inverse. -/
theorem kminvCompletes : Obligations.KminvCompletes := by
  intro s h2 hlt hg
  exact ⟨_, exec_kminv h2 hlt hg, rfl, multiplierInverse_spec h2 hlt hg⟩

/-- R8: the curve of a well-formed configuration is well formed. -/
theorem Config.wf_curve {c : Config} (h : c.wf = true) : c.curve.wf = true := by
  simp only [Config.wf, Bool.and_eq_true] at h
  exact h.2

/-- R160: the order of a well-formed curve's base point fits a scalar register and is above 1. -/
theorem Curve.wf_order {c : Curve} (h : c.wf = true) : 1 < c.n ∧ c.n < 2 ^ 192 := by
  simp only [Curve.wf, Bool.and_eq_true, decide_eq_true_eq] at h
  omega

/-- R160: the prime of a well-formed curve fits a scalar register. -/
theorem Curve.wf_field {c : Curve} (h : c.wf = true) : 3 < c.p ∧ c.p < 2 ^ 192 := by
  simp only [Curve.wf, Bool.and_eq_true, decide_eq_true_eq] at h
  omega

/-- R169: `ESINV` where `EK mod n` is coprime to `n`. -/
theorem exec_esinv {s : State} (hg : Nat.gcd (scalarOperand s) s.cfg.curve.n = 1) :
    exec .esinv s = .next { s with
      ec := { s.ec with einv := BitVec.ofNat 192 (modInv (scalarOperand s) s.cfg.curve.n) }
      status := doneStatus s.status } := by
  change execEsinv s = _
  rw [execEsinv, if_neg (by simp [hg])]
  rfl

/-- A residue that is not 0 is coprime to a prime modulus (R165). -/
theorem gcd_mod_eq_one_of_prime {n k : Nat} (hn : Nat.Prime n) (hk : k % n ≠ 0) : Nat.gcd (k % n) n = 1 :=
  Nat.Coprime.symm ((Nat.Prime.coprime_iff_not_dvd hn).2 fun hd =>
    hk (Nat.eq_zero_of_dvd_of_lt hd (Nat.mod_lt k hn.pos)))

/-- Settles O54: either premise makes `EK mod n` coprime to `n`, and then the modular inverse is what it should be. -/
theorem esinvCompletes : Obligations.EsinvCompletes := by
  intro s hwf hk
  have hg : Nat.gcd (scalarOperand s) s.cfg.curve.n = 1 := hk.elim id fun h => gcd_mod_eq_one_of_prime h.1 h.2
  obtain ⟨hn1, hn192⟩ := Curve.wf_order (Config.wf_curve hwf)
  exact ⟨_, exec_esinv hg, rfl, ofNat_modInv_spec 192 hn1 hn192 (by rwa [scalarOperand, Nat.mod_mod])⟩

end Sys2Proof.Machine

/-! ## Proofs: point addition on the curve (spec/43_ec.md R161 to R164) -/

namespace Sys2Proof.Machine

/-! ### Arithmetic modulo `p`, as arithmetic in `ZMod p` -/

/-- R161: over a prime modulus division by a value that is not 0 has an answer, the quotient. -/
theorem modDiv_spec {p v : Nat} (hp : Nat.Prime p) (u : Nat) (hv : (v : ZMod p) ≠ 0) :
    ∃ q, modDiv p u v = some q ∧ (q : ZMod p) * v = u := by
  have hv0 : v % p ≠ 0 := fun h => hv ((ZMod.natCast_eq_zero_iff v p).2 (Nat.dvd_of_mod_eq_zero h))
  obtain ⟨-, -, hinv⟩ := modInv_spec v p hp.two_le (gcd_mod_eq_one_of_prime hp hv0)
  have hcast : (v : ZMod p) * (modInv v p : Nat) = 1 := by
    rw [← Nat.cast_mul, ← ZMod.natCast_mod, hinv, Nat.cast_one]
  refine ⟨u * modInv v p % p, if_neg hv0, ?_⟩
  rw [ZMod.natCast_mod, Nat.cast_mul]
  linear_combination (u : ZMod p) * hcast

/-- R163: the chord's point is the third point of the line. -/
theorem chord_spec {c : Curve} (hp : 0 < c.p) (x1 y1 x2 lam : Nat) :
    ∃ x3 y3, chord c.p x1 y1 x2 lam = .affine x3 y3 ∧ IsThirdPoint c x1 y1 x2 lam x3 y3 := by
  refine ⟨_, _, rfl, modSub_lt _ _ _ hp, modSub_lt _ _ _ hp, ?_, ?_⟩ <;>
    simp only [natCast_modSub _ _ _ hp, Nat.cast_mul]

theorem natCast_inj_of_lt {p x y : Nat} (hx : x < p) (hy : y < p) : (x : ZMod p) = y ↔ x = y := by
  rw [ZMod.natCast_eq_natCast_iff, Nat.ModEq, Nat.mod_eq_of_lt hx, Nat.mod_eq_of_lt hy]

theorem natCast_eq_neg_iff {p : Nat} (x y : Nat) : (x : ZMod p) = -y ↔ (x + y) % p = 0 := by
  rw [eq_neg_iff_add_eq_zero, ← Nat.cast_add, ZMod.natCast_eq_zero_iff, Nat.dvd_iff_mod_eq_zero]

/-! ### The cases of `PointAdd` -/

/-- R163: where the points are not opposite and the formulas do not divide by zero, the sum is the third point of the line
or tangent. -/
theorem pointAdd_thirdPoint {c : Curve} (hp : Nat.Prime c.p) {x1 y1 x2 y2 : Nat} (hx1 : x1 < c.p) (hx2 : x2 < c.p)
    (hopp : ¬ (x1 = x2 ∧ (y1 + y2) % c.p = 0)) (hdiv : ¬ ZeroDivisor c (.affine x1 y1) (.affine x2 y2)) :
    ∃ lam x3 y3, pointAdd c (.affine x1 y1) (.affine x2 y2) = some (.affine x3 y3) ∧
      IsSlope c x1 y1 x2 y2 lam ∧ IsThirdPoint c x1 y1 x2 lam x3 y3 := by
  by_cases hx : x1 = x2
  · have hsum : (y1 + y2) % c.p ≠ 0 := fun h => hopp ⟨hx, h⟩
    have hden : ((2 * y1 : Nat) : ZMod c.p) ≠ 0 := fun h =>
      hdiv ⟨hx, hsum, Nat.mod_eq_zero_of_dvd ((ZMod.natCast_eq_zero_iff _ _).1 h)⟩
    obtain ⟨lam, hlam, hslope⟩ := modDiv_spec hp (3 * x1 * x1 + c.a) hden
    obtain ⟨x3, y3, hchord, hthird⟩ := chord_spec hp.pos x1 y1 x2 lam
    refine ⟨lam, x3, y3, ?_, ?_, hthird⟩
    · simp only [pointAdd, if_pos hx, if_neg hsum, hlam, Option.map_some, hchord]
    · rw [IsSlope, if_pos hx]
      exact_mod_cast hslope
  · have hden : ((modSub c.p x2 x1 : Nat) : ZMod c.p) ≠ 0 := by
      rw [natCast_modSub _ _ _ hp.pos, sub_ne_zero, Ne, natCast_inj_of_lt hx2 hx1]
      exact Ne.symm hx
    obtain ⟨lam, hlam, hslope⟩ := modDiv_spec hp (modSub c.p y2 y1) hden
    obtain ⟨x3, y3, hchord, hthird⟩ := chord_spec hp.pos x1 y1 x2 lam
    refine ⟨lam, x3, y3, ?_, ?_, hthird⟩
    · simp only [pointAdd, if_neg hx, hlam, Option.map_some, hchord]
    · rw [IsSlope, if_neg hx]
      simpa only [natCast_modSub _ _ _ hp.pos] using hslope

/-! ### The curve as Mathlib's Weierstrass curve over `ZMod p` -/

/-- R160: `y^2 = x^3 + a x + b` over `ZMod p`. -/
def weierstrass (c : Curve) : WeierstrassCurve.Affine (ZMod c.p) :=
  { a₁ := 0, a₂ := 0, a₃ := 0, a₄ := c.a, a₆ := c.b }

/-- R160, R162: a pair of coordinates is on the curve when both are residues and they satisfy its equation. -/
theorem onCurve_affine_iff (c : Curve) (x y : Nat) :
    OnCurve c (.affine x y) ↔ x < c.p ∧ y < c.p ∧ (weierstrass c).Equation x y := by
  have heq : (weierstrass c).Equation x y ↔ y * y % c.p = (x ^ 3 + c.a * x + c.b) % c.p := by
    rw [WeierstrassCurve.Affine.equation_iff]
    change _ ↔ y * y ≡ x ^ 3 + c.a * x + c.b [MOD c.p]
    rw [← ZMod.natCast_eq_natCast_iff]
    simp [weierstrass, sq]
  rw [heq, OnCurve]

/-- R161: points of one x are opposite, in Mathlib's terms, exactly when their y add up to 0. -/
theorem eq_negY_iff (c : Curve) (x : ZMod c.p) (y1 y2 : Nat) :
    (y1 : ZMod c.p) = (weierstrass c).negY x y2 ↔ (y1 + y2) % c.p = 0 := by
  rw [← natCast_eq_neg_iff]
  simp [WeierstrassCurve.Affine.negY, weierstrass]

section OnCurve

variable {c : Curve} {x1 y1 x2 y2 : Nat} (h1 : OnCurve c (.affine x1 y1)) (h2 : OnCurve c (.affine x2 y2))

include h1 h2

/-- R161, R162: two points of the curve with one x that are not opposite are equal. -/
theorem y_eq_of_not_opposite (hp : Nat.Prime c.p) (hx : x1 = x2) (hopp : (y1 + y2) % c.p ≠ 0) : y1 = y2 := by
  have := Fact.mk hp
  obtain ⟨-, hy1, heq1⟩ := (onCurve_affine_iff c x1 y1).1 h1
  obtain ⟨-, hy2, heq2⟩ := (onCurve_affine_iff c x2 y2).1 h2
  exact (natCast_inj_of_lt hy1 hy2).1 (WeierstrassCurve.Affine.Y_eq_of_Y_ne heq1 heq2 (congrArg _ hx)
    (mt (eq_negY_iff c _ y1 y2).1 hopp))

/-- R163: on the curve the formulas never divide by zero. -/
theorem not_zeroDivisor_of_onCurve (hp : Nat.Prime c.p) : ¬ ZeroDivisor c (.affine x1 y1) (.affine x2 y2) := by
  rintro ⟨hx, hopp, hzero⟩
  have hy := y_eq_of_not_opposite h1 h2 hp hx hopp
  rw [two_mul] at hzero
  exact hopp (hy ▸ hzero)

/-- R163: on the curve the rule's slope is Mathlib's. -/
theorem natCast_eq_slope [Fact (Nat.Prime c.p)] {lam : Nat} (hopp : ¬ (x1 = x2 ∧ (y1 + y2) % c.p = 0))
    (hlam : IsSlope c x1 y1 x2 y2 lam) : (lam : ZMod c.p) = (weierstrass c).slope x1 x2 y1 y2 := by
  have hp : Nat.Prime c.p := Fact.out
  by_cases hx : x1 = x2
  · have hsum : (y1 + y2) % c.p ≠ 0 := fun h => hopp ⟨hx, h⟩
    have hneg : (y1 : ZMod c.p) ≠ (weierstrass c).negY x2 y2 := mt (eq_negY_iff c _ y1 y2).1 hsum
    have hden : (y1 : ZMod c.p) - (weierstrass c).negY x1 y1 ≠ 0 := by
      rw [sub_ne_zero, Ne, eq_negY_iff]
      exact y_eq_of_not_opposite h1 h2 hp hx hsum ▸ hsum
    rw [IsSlope, if_pos hx] at hlam
    rw [WeierstrassCurve.Affine.slope_of_Y_ne (congrArg _ hx) hneg, eq_div_iff hden]
    simp only [WeierstrassCurve.Affine.negY, weierstrass]
    linear_combination hlam
  · have hx' : (x1 : ZMod c.p) ≠ x2 := mt (natCast_inj_of_lt h1.1 h2.1).1 hx
    rw [IsSlope, if_neg hx] at hlam
    rw [WeierstrassCurve.Affine.slope_of_X_ne hx', eq_div_iff (sub_ne_zero.2 hx')]
    linear_combination -hlam

/-- R163: the third point of the line or tangent through two points of the curve is on the curve. -/
theorem onCurve_thirdPoint (hp : Nat.Prime c.p) {lam x3 y3 : Nat} (hopp : ¬ (x1 = x2 ∧ (y1 + y2) % c.p = 0))
    (hlam : IsSlope c x1 y1 x2 y2 lam) (h3 : IsThirdPoint c x1 y1 x2 lam x3 y3) : OnCurve c (.affine x3 y3) := by
  have := Fact.mk hp
  obtain ⟨hx1, -, heq1⟩ := (onCurve_affine_iff c x1 y1).1 h1
  obtain ⟨hx2, -, heq2⟩ := (onCurve_affine_iff c x2 y2).1 h2
  obtain ⟨hx3, hy3, hx, hy⟩ := h3
  have hadd := WeierstrassCurve.Affine.equation_add heq1 heq2 (mt (And.imp (natCast_inj_of_lt hx1 hx2).1
    (eq_negY_iff c _ y1 y2).1) hopp)
  rw [← natCast_eq_slope h1 h2 hopp hlam] at hadd
  have hX : (weierstrass c).addX x1 x2 lam = x3 := by
    rw [hx, WeierstrassCurve.Affine.addX]
    simp only [weierstrass]
    ring
  have hY : (weierstrass c).addY x1 x2 y1 lam = y3 := by
    rw [hy, WeierstrassCurve.Affine.addY, WeierstrassCurve.Affine.negAddY, hX, WeierstrassCurve.Affine.negY]
    simp only [weierstrass]
    ring
  rw [hX, hY] at hadd
  exact (onCurve_affine_iff c x3 y3).2 ⟨hx3, hy3, hadd⟩

end OnCurve

/-- R163: on the curve `PointAdd` has an answer, and it is on the curve. -/
theorem pointAdd_onCurve {c : Curve} (hp : Nat.Prime c.p) {p q : Point} (h1 : OnCurve c p) (h2 : OnCurve c q) :
    ∃ r, pointAdd c p q = some r ∧ OnCurve c r := by
  match p, q with
  | .infinity, q => exact ⟨q, rfl, h2⟩
  | .affine x1 y1, .infinity => exact ⟨.affine x1 y1, rfl, h1⟩
  | .affine x1 y1, .affine x2 y2 =>
    by_cases hopp : x1 = x2 ∧ (y1 + y2) % c.p = 0
    · exact ⟨.infinity, by simp [pointAdd, hopp.1, hopp.2], trivial⟩
    · obtain ⟨lam, x3, y3, hadd, hlam, h3⟩ :=
        pointAdd_thirdPoint hp h1.1 h2.1 hopp (not_zeroDivisor_of_onCurve h1 h2 hp)
      exact ⟨.affine x3 y3, hadd, onCurve_thirdPoint h1 h2 hp hopp hlam h3⟩

/-! ### Scalar multiplication -/

/-- R164: from accumulators in a set of points that `PointAdd` never leaves, the loop has an answer, in that set. -/
theorem scalarLoop_closed {c : Curve} {S : Point → Prop}
    (hS : ∀ p q, S p → S q → ∃ r, pointAdd c p q = some r ∧ S r) (i : Nat) :
    ∀ (k : Nat) (r a : Point), S r → S a → ∃ t, scalarLoop c i k r a = some t ∧ S t := by
  induction i with
  | zero => exact fun k r a hr _ => ⟨r, rfl, hr⟩
  | succ i ih =>
    intro k r a hr ha
    have hstep : ∃ r', (if k % 2 = 1 then pointAdd c r a else some r) = some r' ∧ S r' := by
      split
      · exact hS r a hr ha
      · exact ⟨r, rfl, hr⟩
    obtain ⟨r', hr', hSr'⟩ := hstep
    obtain ⟨a', ha', hSa'⟩ := hS a a ha ha
    obtain ⟨t, ht, hSt⟩ := ih (k / 2) r' a' hSr' hSa'
    exact ⟨t, by simp only [scalarLoop, hr', ha', ht], hSt⟩

/-- R164: `ScalarMul` of a point of the curve has an answer, and it is on the curve. -/
theorem scalarMul_onCurve {c : Curve} (hp : Nat.Prime c.p) {p : Point} (h : OnCurve c p) (k : Nat) :
    ∃ r, scalarMul c k p = some r ∧ OnCurve c r :=
  scalarLoop_closed (fun _ _ h1 h2 => pointAdd_onCurve hp h1 h2) _ k .infinity p trivial h

end Sys2Proof.Machine

/-! ## Proofs: key generation on the curve (spec/43_ec.md R170) -/

namespace Sys2Proof.Machine

/-- R15: a value of the range that the port has ready is the draw, and the rest stays ready. -/
theorem draw_ready {lo hi v : Nat} {vs : List Nat} {src : Source} (h : src.rand = v :: vs) (hv : lo ≤ v ∧ v ≤ hi) :
    draw lo hi src = (v, { src with rand := vs }) := by
  simp only [draw, h, intoRange_of_mem lo hi v hv]

/-- R32: a point of the curve is what its registers hold. -/
theorem pointOf_regs {c : Curve} (hfit : c.p ≤ 2 ^ 192) {p : Point} (h : OnCurve c p) :
    pointOf p.xReg p.yReg p.isInfinity = p := by
  match p with
  | .infinity => rfl
  | .affine x y =>
    change Point.affine (BitVec.ofNat 192 x).toNat (BitVec.ofNat 192 y).toNat = .affine x y
    rw [BitVec.toNat_ofNat, BitVec.toNat_ofNat, Nat.mod_eq_of_lt (h.1.trans_le hfit),
      Nat.mod_eq_of_lt (h.2.1.trans_le hfit)]

/-- R160: the base point of a well-formed curve is on it. -/
theorem basePoint_onCurve {c : Curve} (h : c.wf = true) : OnCurve c (basePoint c) := by
  simp only [Curve.wf, Bool.and_eq_true, decide_eq_true_eq] at h
  obtain ⟨⟨⟨⟨⟨⟨-, hgx⟩, hgy⟩, -⟩, -⟩, -⟩, heq⟩ := h
  exact ⟨hgx, hgy, heq⟩

/-- R164, R170: on a legal curve the public point of a scalar of `[1, n-1]` is the multiple of `G`, on the curve and finite. -/
theorem publicPoint_spec {c : Curve} (h : Curve.Legal c) {d : Nat} (h0 : 0 < d) (hn : d < c.n) :
    scalarMul c d (basePoint c) = some (publicPoint c d) ∧ OnCurve c (publicPoint c d) ∧
      (publicPoint c d).isInfinity = false := by
  obtain ⟨hwf, hp, -, -, hfinite⟩ := h
  obtain ⟨q, hq, hon⟩ := scalarMul_onCurve hp (basePoint_onCurve hwf) d
  have hpub : publicPoint c d = q := by rw [publicPoint, hq, Option.getD_some]
  rw [hpub]
  refine ⟨hq, hon, ?_⟩
  match q with
  | .infinity => exact absurd hq (hfinite d h0 hn)
  | .affine x y => rfl

/-- R170: the registers of a generated key pair hold the scalar and its public point. -/
theorem curveKeyPair_spec {c : Curve} (h : Curve.Legal c) (r : CurveRegs) {d : Nat} (h0 : 0 < d) (hn : d < c.n) :
    (curveKeyPair c r d).ed.toNat = d ∧ pointQ (curveKeyPair c r d) = publicPoint c d := by
  obtain ⟨-, hon, hfinite⟩ := publicPoint_spec h h0 hn
  constructor
  · rw [curveKeyPair_ed, BitVec.toNat_ofNat, Nat.mod_eq_of_lt (hn.trans (Curve.wf_order h.1).2)]
  · rw [pointQ, curveKeyPair_eqx, curveKeyPair_eqy, curveKeyPair_qinf, ← hfinite]
    exact pointOf_regs (Curve.wf_field h.1).2.le hon

/-- R170: `EKEYGEN` on the draw of `[1, n-1]`. -/
theorem exec_ekeygen (s : State) :
    exec .ekeygen s = .next { s with
      ec := curveKeyPair s.cfg.curve s.ec (draw 1 (s.cfg.curve.n - 1) s.src).1
      src := (draw 1 (s.cfg.curve.n - 1) s.src).2
      status := doneStatus s.status } := rfl

/-- Settles O55: the draw lies in `[1, n-1]`, so its multiple of `G` is a finite point of the curve, which `Q` holds. -/
theorem ekeygenCompletes : Obligations.EkeygenCompletes := by
  intro s _ hlegal
  obtain ⟨hn1, -⟩ := Curve.wf_order hlegal.1
  obtain ⟨hlo, hhi⟩ := draw_mem 1 (s.cfg.curve.n - 1) s.src (by omega)
  have hlt : (draw 1 (s.cfg.curve.n - 1) s.src).1 < s.cfg.curve.n := by omega
  obtain ⟨hed, hq⟩ := curveKeyPair_spec hlegal s.ec hlo hlt
  obtain ⟨hmul, hon, -⟩ := publicPoint_spec hlegal hlo hlt
  have hready : ∀ v vs, s.src.rand = v :: vs → 1 ≤ v → v ≤ s.cfg.curve.n - 1 →
      (draw 1 (s.cfg.curve.n - 1) s.src).1 = v ∧ (draw 1 (s.cfg.curve.n - 1) s.src).2.rand = vs := by
    intro v vs hrand h1 h2
    rw [draw_ready hrand ⟨h1, h2⟩]
    exact ⟨rfl, rfl⟩
  refine ⟨_, exec_ekeygen s, rfl, ?_⟩
  dsimp only
  rw [hed, hq]
  exact ⟨hlo, hhi, hmul, hon, hready⟩

end Sys2Proof.Machine

/-! ## Proofs: the host port (spec/10_state.md R20 to R25, R33, spec/20_memory.md R62, R63) -/

namespace Sys2Proof.Machine

/-! ### The select map -/

/-- R66: what locates a register bounds the element. -/
theorem locate_eq_some {cfg : Config} {sel : BitVec 8} {idx : BitVec 16} {r : Reg} :
    locate cfg sel idx = some r ↔ regOf sel = some r ∧ idx.toNat < elements cfg r := by
  unfold locate
  split
  · next hreg => simp [hreg]
  · next r' hreg =>
    rw [hreg, Option.ite_none_right_eq_some, and_comm]
    exact and_congr_right fun heq => by cases heq; rfl

/-- R20: an element of a register is located by the register's select number. -/
theorem locate_selOf {cfg : Config} {r : Reg} {idx : BitVec 16} (h : idx.toNat < elements cfg r) :
    locate cfg (selOf r) idx = some r :=
  locate_eq_some.2 ⟨regOf_selOf r, h⟩

/-- R20: the rows of the table are the registers, by their own select numbers, elements, widths and kinds. -/
theorem selectTable_eq_map (cfg : Config) :
    selectTable cfg = allRegs.map fun r => ⟨selOf r, r, elements cfg r, width r, readOnly r⟩ := rfl

/-- R20: the port's register map is the table. -/
theorem isSelectMap (cfg : Config) : IsSelectMap cfg := by
  rw [IsSelectMap, selectTable_eq_map]
  constructor
  · intro row hrow
    obtain ⟨r, -, rfl⟩ := List.mem_map.1 hrow
    exact ⟨regOf_selOf r, rfl, rfl, rfl⟩
  · exact fun sel h =>
      List.find?_eq_none.2 fun r hr hsel => h _ (List.mem_map_of_mem hr) (eq_of_beq hsel)

/-! ### Values seen at the port's 256 bits -/

/-- R10, R63: the low `w` bits of a carried value, as they are read back. -/
theorem setWidth_setWidth_eq_ofNat (w : Nat) (v : BitVec 256) :
    (v.setWidth w).setWidth 256 = BitVec.ofNat 256 (v.toNat % 2 ^ w) :=
  BitVec.eq_of_toNat_eq (by rw [BitVec.toNat_setWidth, BitVec.toNat_setWidth, BitVec.toNat_ofNat])

/-- R10: a value of a width is below its power of 2, also at 256 bits. -/
theorem toNat_setWidth_port_lt {w : Nat} (v : BitVec w) : (v.setWidth 256).toNat < 2 ^ w := by
  rw [BitVec.toNat_setWidth]
  exact (Nat.mod_le _ _).trans_lt v.isLt

/-- R10: every register answers a value of its width. -/
theorem readReg_lt (r : Reg) (i : Nat) (s : State) : (readReg r i s).toNat < 2 ^ width r := by
  cases r with
  | ee => exact s.ec.ee.isLt
  | _ => exact toNat_setWidth_port_lt _

/-! ### The words of `STATUS`, `EFLAGS` and `CTRL` (R23, R24, R33) -/

theorem toNat_append_eq_add {n m : Nat} (x : BitVec n) (y : BitVec m) :
    (x ++ y).toNat = x.toNat * 2 ^ m + y.toNat := by
  rw [BitVec.toNat_append, ← Nat.shiftLeft_add_eq_or_of_lt y.isLt, Nat.shiftLeft_eq]

theorem bitAt_eq_mul (pos : Nat) (b : Bool) : bitAt pos b = b.toNat * 2 ^ pos := by
  cases b <;> simp [bitAt]

/-- R23: the flags and `ERRCODE` at their places, from the most significant bit down. -/
def Status.layout (st : Status) : BitVec (13 + 1 + 1 + 1 + 8 + 1 + 1 + 1 + 1 + 1 + 1 + 1 + 1) :=
  0#13 ++ BitVec.ofBool st.badacc ++ BitVec.ofBool st.wbusy ++ BitVec.ofBool st.serr ++ st.errcode ++ 0#1 ++
    BitVec.ofBool st.vok ++ BitVec.ofBool st.skdir ++ BitVec.ofBool st.skv ++ BitVec.ofBool st.keyv ++
    BitVec.ofBool st.err ++ BitVec.ofBool st.done ++ BitVec.ofBool st.busy

/-- R23: the sum of the placed fields is their layout. -/
theorem Status.word_eq_layout (st : Status) : st.word = st.layout := by
  refine (congrArg (BitVec.ofNat 32) ?_).trans ((BitVec.ofNat_toNat _ _).trans (BitVec.setWidth_eq st.layout))
  simp only [Status.layout, toNat_append_eq_add, bitAt_eq_mul, BitVec.toNat_ofNat, BitVec.toNat_ofBool]
  ring

theorem Status.getLsbD_word (st : Status) (i : Nat) : st.word.getLsbD i = st.layout.getLsbD i := by
  rw [Status.word_eq_layout]

/-- R23: each flag at its bit. -/
theorem Status.getLsbD_word_flags (st : Status) :
    st.word.getLsbD 0 = st.busy ∧ st.word.getLsbD 1 = st.done ∧ st.word.getLsbD 2 = st.err ∧
    st.word.getLsbD 3 = st.keyv ∧ st.word.getLsbD 4 = st.skv ∧ st.word.getLsbD 5 = st.skdir ∧
    st.word.getLsbD 6 = st.vok ∧ st.word.getLsbD 16 = st.serr ∧ st.word.getLsbD 17 = st.wbusy ∧
    st.word.getLsbD 18 = st.badacc := by
  simp only [Status.getLsbD_word, Status.layout, BitVec.getLsbD_append]
  simp

/-- R23: `ERRCODE` at bits 15:8. -/
theorem Status.extractLsb'_word (st : Status) : st.word.extractLsb' 8 8 = st.errcode := by
  refine BitVec.eq_of_getLsbD_eq fun i hi => ?_
  simp only [BitVec.getLsbD_extractLsb', Status.getLsbD_word, Status.layout, BitVec.getLsbD_append]
  interval_cases i <;> simp

/-- R23: bits 7 and 31:19 read 0. -/
theorem Status.word_reserved (st : Status) : st.word &&& 0xFFF80080 = 0 := by
  refine BitVec.eq_of_getLsbD_eq fun i hi => ?_
  simp only [BitVec.getLsbD_and, Status.getLsbD_word, Status.layout, BitVec.getLsbD_append]
  interval_cases i <;> simp

/-- R23: the word after a write is the word before without the W1C bits written as 1. -/
theorem Status.word_writeOneClear (st : Status) (v : CmdWord) :
    (st.writeOneClear v).word = st.word &&& ~~~(v &&& 0x00070002) := by
  refine BitVec.eq_of_getLsbD_eq fun i hi => ?_
  simp only [BitVec.getLsbD_and, Status.getLsbD_word, Status.layout, BitVec.getLsbD_append]
  interval_cases i <;> simp

/-- R33: the infinity flags at their places, from the most significant bit down. -/
def CurveRegs.eflagsLayout (r : CurveRegs) : BitVec (5 + 1 + 1 + 1) :=
  0#5 ++ BitVec.ofBool r.rinf ++ BitVec.ofBool r.qinf ++ BitVec.ofBool r.pinf

theorem CurveRegs.eflags_eq_layout (r : CurveRegs) : r.eflags = r.eflagsLayout := by
  rw [CurveRegs.eflags, CurveRegs.eflagsLayout]
  cases r.pinf <;> cases r.qinf <;> cases r.rinf <;> rfl

theorem CurveRegs.getLsbD_eflags (r : CurveRegs) (i : Nat) : r.eflags.getLsbD i = r.eflagsLayout.getLsbD i := by
  rw [CurveRegs.eflags_eq_layout]

/-- R33: `EFLAGS` after a write: bits 0 and 1 as written, bit 2 as it was. -/
theorem CurveRegs.eflags_writeEflags (r : CurveRegs) (f : BitVec 8) :
    (r.writeEflags f).eflags = (f &&& 3) ||| (if r.rinf then 4 else 0) := by
  refine BitVec.eq_of_getLsbD_eq fun i hi => ?_
  simp only [CurveRegs.getLsbD_eflags, CurveRegs.eflagsLayout, BitVec.getLsbD_append]
  cases hr : r.rinf <;> interval_cases i <;> simp [hr]

/-- R33: what `EFLAGS` shows at the port. -/
theorem CurveRegs.eflags_port (r : CurveRegs) : r.eflags.setWidth 256 =
    (if r.pinf then 1 else 0) + (if r.qinf then 2 else 0) + (if r.rinf then 4 else (0 : BitVec 256)) := by
  rw [CurveRegs.eflags]
  cases r.pinf <;> cases r.qinf <;> cases r.rinf <;> rfl

/-- R24: what `CTRL` shows at the port. -/
theorem ctrlWord_port (s : State) : (ctrlWord s).setWidth 256 = if s.ie then 1 else 0 := by
  rw [ctrlWord]
  cases s.ie <;> rfl

/-- R24: `CTRL` after a write: bit 0 as written. -/
theorem ctrlWord_bit_zero (s : State) (v : CmdWord) : ctrlWord { s with ie := v.getLsbD 0 } = v &&& 1 := by
  refine Eq.trans ?_ (BitVec.and_one_eq_setWidth_ofBool_getLsbD (x := v)).symm
  rw [ctrlWord]
  cases v.getLsbD 0 <;> rfl

/-- R10: masking bits away at a register's width or at the port's is the same. -/
theorem setWidth_and_not (a b : BitVec 32) :
    (a &&& ~~~b).setWidth 256 = a.setWidth 256 &&& ~~~(b.setWidth 256) := by
  refine BitVec.eq_of_getLsbD_eq fun i hi => ?_
  by_cases h : i < 32
  · simp [h, hi]
  · simp [BitVec.getLsbD_of_ge a i (Nat.le_of_not_lt h)]

/-! ### Elements -/

theorem elem_eq_getElem {w k : Nat} (v : Vector (BitVec w) k) {i : Nat} (h : i < k) : elem v i = v[i] := by
  simp [elem, h]

theorem elem_setIfInBounds_same {w k : Nat} (v : Vector (BitVec w) k) {i : Nat} (x : BitVec w) (h : i < k) :
    elem (v.setIfInBounds i x) i = x := by
  simp [elem, h]

theorem setIfInBounds_eq_set {α : Type} {k : Nat} (v : Vector α k) {i : Nat} (x : α) (h : i < k) :
    v.setIfInBounds i x = v.set i x h :=
  Vector.ext fun j hj => by rw [Vector.getElem_setIfInBounds, Vector.getElem_set]

theorem elem_setIfInBounds_other {w k : Nat} (v : Vector (BitVec w) k) {i j : Nat} (x : BitVec w) (h : j ≠ i) :
    elem (v.setIfInBounds i x) j = elem v j := by
  rw [elem, elem, Vector.getElem?_setIfInBounds_ne h.symm]

/-! ### What a read shows after a write -/

/-- R63: a plain register reads back the low bits of the value written, as many as it is wide. -/
theorem readReg_writeReg_same {r : Reg} {i : Nat} (v : BitVec 256) {s : State} (hwf : Memory.wf s.dbuf = true)
    (hi : i < elements s.cfg r) (hro : readOnly r = false) (hplain : r ∉ [Reg.cmd, Reg.status, Reg.ctrl, Reg.eflags]) :
    readReg r i (writeReg r i v s) = BitVec.ofNat 256 (v.toNat % 2 ^ width r) := by
  rw [← setWidth_setWidth_eq_ofNat]
  cases r with
  | id | sk | kinv | erx | ery | einv => cases hro
  | cmd | status | ctrl | eflags => exact absurd hplain (by decide)
  | dbuf => exact congrArg (BitVec.setWidth 256) (Memory.get_set_same s.dbuf i _ hwf)
  | kw => exact congrArg (BitVec.setWidth 256) (elem_setIfInBounds_same s.knap.kw _ hi)
  | kb => exact congrArg (BitVec.setWidth 256) (elem_setIfInBounds_same s.knap.kb _ hi)
  | ee => simp [readReg, writeReg, width]
  | _ => rfl

/-- R63: a write leaves what every other register reads alone, but `STATUS` after a write of `KEY` or `CMD`: apart from those
pairs, which the premises exclude, two registers are different fields. -/
theorem readReg_writeReg_other {r r' : Reg} (i i' : Nat) (v : BitVec 256) (s : State) (hne : r' ≠ r)
    (hst : r' = .status → r ≠ .key ∧ r ≠ .cmd) : readReg r' i' (writeReg r i v s) = readReg r' i' s := by
  cases r <;> cases r' <;> simp at hne hst <;> rfl

/-- R20: a register other than the arrays has element 0 alone. -/
theorem elements_eq_one {cfg : Config} {r : Reg} (h : r ∉ [Reg.sk, Reg.dbuf, Reg.kw, Reg.kb]) : elements cfg r = 1 := by
  cases r with
  | sk | dbuf | kw | kb => exact absurd h (by decide)
  | _ => rfl

/-- R63: a write of an element leaves what the register's other elements read alone. -/
theorem readReg_writeReg_otherElement {r : Reg} {i i' : Nat} (v : BitVec 256) (s : State) (hi : i < elements s.cfg r)
    (hi' : i' < elements s.cfg r) (hne : i' ≠ i) : readReg r i' (writeReg r i v s) = readReg r i' s := by
  by_cases harray : r ∈ [Reg.sk, Reg.dbuf, Reg.kw, Reg.kb]
  · simp only [List.mem_cons, List.not_mem_nil, or_false] at harray
    obtain rfl | rfl | rfl | rfl := harray
    · rfl
    · exact congrArg (BitVec.setWidth 256) (Memory.get_set_other s.dbuf i i' _ hne)
    · exact congrArg (BitVec.setWidth 256) (elem_setIfInBounds_other s.knap.kw _ hne)
    · exact congrArg (BitVec.setWidth 256) (elem_setIfInBounds_other s.knap.kb _ hne)
  · rw [elements_eq_one harray] at hi hi'
    omega

/-! ### Good accesses -/

/-- R62, R65: a good read while idle, or of a register that reads exactly also while busy. -/
theorem hostRead_good {s : State} {sel : BitVec 8} {idx : BitVec 16} {r : Reg} (hloc : locate s.cfg sel idx = some r)
    (h : s.status.busy = false ∨ exactWhileBusy r = true) :
    hostRead sel idx s = { s with rdata := readReg r idx.toNat s } := by
  simp only [hostRead, hloc]
  exact if_neg (by rcases h with h | h <;> simp [h])

/-- R63: a good write while idle. -/
theorem hostWrite_good {s : State} {sel : BitVec 8} {idx : BitVec 16} {r : Reg} (hidle : s.status.busy = false)
    (hloc : locate s.cfg sel idx = some r) (hro : readOnly r = false) (v : BitVec 256) :
    hostWrite sel idx v s = writeReg r idx.toNat v s := by
  have hgood : badWrite s.cfg sel idx = false := by simp only [badWrite, hloc, hro]
  rw [hostWrite, hidle, hgood, hloc]
  rfl

/-- R62: a read by select number. -/
theorem rdata_hostRead_selOf (r : Reg) {idx : BitVec 16} {s : State} (hidx : idx.toNat < elements s.cfg r)
    (h : s.status.busy = false ∨ exactWhileBusy r = true) :
    (hostRead (selOf r) idx s).rdata = readReg r idx.toNat s := by
  rw [hostRead_good (locate_selOf hidx) h]

/-- R63: a write by select number. -/
theorem hostWrite_selOf (r : Reg) {idx : BitVec 16} {s : State} (hidle : s.status.busy = false)
    (hidx : idx.toNat < elements s.cfg r) (hro : readOnly r = false) (v : BitVec 256) :
    hostWrite (selOf r) idx v s = writeReg r idx.toNat v s :=
  hostWrite_good hidle (locate_selOf hidx) hro v

/-- R63: a write by select number of a register with one element. -/
theorem hostWrite_selOf_zero (r : Reg) {s : State} (hidle : s.status.busy = false) (h1 : elements s.cfg r = 1)
    (hro : readOnly r = false) (v : BitVec 256) : hostWrite (selOf r) 0 v s = writeReg r 0 v s :=
  hostWrite_selOf r (idx := 0) hidle (h1 ▸ Nat.zero_lt_one) hro v

/-- R62: a read by select number of a register with one element. -/
theorem rdata_hostRead_selOf_zero (r : Reg) {s : State} (h1 : elements s.cfg r = 1)
    (h : s.status.busy = false ∨ exactWhileBusy r = true) : (hostRead (selOf r) 0 s).rdata = readReg r 0 s :=
  rdata_hostRead_selOf r (idx := 0) (h1 ▸ Nat.zero_lt_one) h

/-- R63: a good write of a register other than `CMD` leaves an idle CORE idle. -/
theorem writeReg_busy {r : Reg} (h : r ≠ .cmd) (i : Nat) (v : BitVec 256) (s : State) :
    (writeReg r i v s).status.busy = s.status.busy := by
  cases r with
  | cmd => exact absurd rfl h
  | _ => rfl

/-! ### The fields of the registers -/

/-- R20, R63: each plain register's idle write sets its field. -/
theorem writesSetTheirFields {s : State} (hidle : s.status.busy = false) : WritesSetTheirFields s := by
  have hset (r : Reg) := hostWrite_selOf_zero r (s := s) hidle
  refine ⟨fun v => (hset .key rfl rfl _).trans ?_, fun i v h => (hostWrite_selOf .dbuf hidle h rfl _).trans ?_,
    fun i v h => (hostWrite_selOf .kw hidle h rfl _).trans (by simp [writeReg, setIfInBounds_eq_set _ _ h]),
    fun i v h => (hostWrite_selOf .kb hidle h rfl _).trans (by simp [writeReg, setIfInBounds_eq_set _ _ h]),
    fun v => (hset .klen rfl rfl _).trans ?_, fun v => (hset .km rfl rfl _).trans ?_,
    fun v => (hset .ka rfl rfl _).trans ?_, fun v => (hset .kkey rfl rfl _).trans ?_,
    fun v => (hset .kc rfl rfl _).trans ?_, fun v => (hset .ed rfl rfl _).trans ?_,
    fun v => (hset .eqx rfl rfl _).trans ?_, fun v => (hset .eqy rfl rfl _).trans ?_,
    fun v => (hset .er rfl rfl _).trans ?_, fun v => (hset .es rfl rfl _).trans ?_,
    fun v => (hset .ek rfl rfl _).trans ?_, fun v => (hset .epx rfl rfl _).trans ?_,
    fun v => (hset .epy rfl rfl _).trans ?_, hset .ee rfl rfl⟩
  all_goals simp [writeReg]

/-- R20, R62: each register's idle read shows its field. -/
theorem readsShowTheirFields {s : State} (hidle : s.status.busy = false) : ReadsShowTheirFields s := by
  have hread (r : Reg) {idx : BitVec 16} (hidx : idx.toNat < elements s.cfg r) :
      (hostRead (selOf r) idx s).rdata = readReg r idx.toNat s := rdata_hostRead_selOf r hidx (.inl hidle)
  have hread0 (r : Reg) (h1 : elements s.cfg r = 1) := rdata_hostRead_selOf_zero r h1 (.inl hidle)
  exact ⟨hread0 .id rfl, hread0 .cmd rfl, hread0 .status rfl, hread0 .key rfl, hread0 .klen rfl, hread0 .km rfl,
    hread0 .ka rfl, hread0 .kkey rfl, hread0 .kc rfl, hread0 .kinv rfl, hread0 .ed rfl, hread0 .eqx rfl,
    hread0 .eqy rfl, hread0 .er rfl, hread0 .es rfl, hread0 .ek rfl, hread0 .epx rfl, hread0 .epy rfl,
    hread0 .erx rfl, hread0 .ery rfl, hread0 .einv rfl, (hread0 .ctrl rfl).trans (ctrlWord_port s), hread0 .ee rfl,
    (hread0 .eflags rfl).trans (CurveRegs.eflags_port s.ec), fun i h => hread .dbuf h,
    fun i h => (hread .sk h).trans (congrArg (BitVec.setWidth 256) (elem_eq_getElem s.sk h)),
    fun i h => (hread .kw h).trans (congrArg (BitVec.setWidth 256) (elem_eq_getElem s.knap.kw h)),
    fun i h => (hread .kb h).trans (congrArg (BitVec.setWidth 256) (elem_eq_getElem s.knap.kb h))⟩

/-- Settles O13: `KEY` is one of the plain registers. -/
theorem keyWriteSetsKeyv : Obligations.KeyWriteSetsKeyv :=
  fun _ k hidle => (writesSetTheirFields hidle).1 k

/-- Settles O12: a good access is the read or write of the register it locates, and another access of one register is of
another element. -/
theorem writtenRegisterReadsBack : Obligations.WrittenRegisterReadsBack := by
  intro s hidle
  refine ⟨isSelectMap s.cfg, writesSetTheirFields hidle, readsShowTheirFields hidle, ?_, ?_⟩
  · intro sel idx r hloc
    rw [hostRead_good hloc (.inl hidle)]
    exact ⟨readReg_lt r _ s, rfl⟩
  · intro sel idx v r hwf hloc hro hplain
    have hcmd : r ≠ .cmd := fun h => hplain (by simp [h])
    obtain ⟨hsel, hidx⟩ := locate_eq_some.1 hloc
    have hread {sel' : BitVec 8} {idx' : BitVec 16} {r' : Reg} (hloc' : locate s.cfg sel' idx' = some r') :
        (hostRead sel' idx' (hostWrite sel idx v s)).rdata = readReg r' idx'.toNat (writeReg r idx.toNat v s) := by
      rw [hostWrite_good hidle hloc hro,
        hostRead_good (by rwa [writeReg_cfg]) (.inl ((writeReg_busy hcmd _ _ _).trans hidle))]
    refine ⟨(hread hloc).trans (readReg_writeReg_same v hwf hidx hro hplain), fun sel' idx' r' hloc' hst hne => ?_⟩
    rw [hread hloc', hostRead_good hloc' (.inl hidle)]
    obtain ⟨hsel', hidx'⟩ := locate_eq_some.1 hloc'
    by_cases hr : r' = r
    · subst hr
      have hidx_ne : idx' ≠ idx := fun h =>
        hne (Prod.ext ((selOf_of_regOf _ _ hsel').symm.trans (selOf_of_regOf _ _ hsel)) h)
      exact readReg_writeReg_otherElement v s hidx hidx' fun h => hidx_ne (BitVec.eq_of_toNat_eq h)
    · exact readReg_writeReg_other _ _ v s hr fun h => ⟨hst h, hcmd⟩

/-! ### The registers with rules of their own (R22, R23, R24, R33) -/

/-- R253: an idle write of a word to `CMD` is its issue. -/
theorem hostWrite_cmd {s : State} (hidle : s.status.busy = false) (w : CmdWord) :
    hostWrite 0x01 0 (w.setWidth 256) s = issue w s :=
  (hostWrite_selOf_zero .cmd hidle rfl rfl _).trans (by simp [writeReg])

/-- R23: an idle write of `STATUS` clears the W1C bits written as 1. -/
theorem hostWrite_status {s : State} (hidle : s.status.busy = false) (v : CmdWord) :
    hostWrite 0x02 0 (v.setWidth 256) s = { s with status := s.status.writeOneClear v } :=
  (hostWrite_selOf_zero .status hidle rfl rfl _).trans (by simp [writeReg])

/-- R24: an idle write of `CTRL` sets `IE`. -/
theorem hostWrite_ctrl {s : State} (hidle : s.status.busy = false) (v : CmdWord) :
    hostWrite 0x03 0 (v.setWidth 256) s = { s with ie := v.getLsbD 0 } :=
  (hostWrite_selOf_zero .ctrl hidle rfl rfl _).trans (by simp [writeReg])

/-- R33: an idle write of `EFLAGS` sets `PINF` and `QINF`. -/
theorem hostWrite_eflags {s : State} (hidle : s.status.busy = false) (f : BitVec 8) :
    hostWrite 0x39 0 (f.setWidth 256) s = { s with ec := s.ec.writeEflags f } :=
  (hostWrite_selOf_zero .eflags hidle rfl rfl _).trans (by simp [writeReg])

/-- R62: a write turn at the head of the agenda is the step. -/
theorem step_write {s : State} {sel : BitVec 8} {idx : BitVec 16} {v : BitVec 256} {rest : List Turn}
    (h : s.agenda = .write sel idx v :: rest) : step s = .next (hostWrite sel idx v { s with agenda := rest }) := by
  rw [step, nextTurn, h]
  rfl

/-- Settles O8: the host's turn issues the word, and `CMD` reads exactly while busy. -/
theorem issueLatchesAnyWord : Obligations.IssueLatchesAnyWord := by
  intro s w rest hidle hagenda
  exact ⟨_, (step_write hagenda).trans (congrArg _ (hostWrite_cmd (s := { s with agenda := rest }) hidle w)), rfl,
    rdata_hostRead_selOf_zero .cmd rfl (.inr rfl)⟩

/-- Settles O14: by the layout of the word, and what the write leaves of it. -/
theorem statusLayoutAndWriteOneClear : Obligations.StatusLayoutAndWriteOneClear := by
  have hread (s : State) : (hostRead 0x02 0 s).rdata = s.status.word.setWidth 256 :=
    rdata_hostRead_selOf_zero .status rfl (.inr rfl)
  constructor
  · intro s
    obtain ⟨hbusy, hdone, herr, hkeyv, hskv, hskdir, hvok, hserr, hwbusy, hbadacc⟩ := s.status.getLsbD_word_flags
    exact ⟨_, hread s, rfl, hbusy, hdone, herr, hkeyv, hskv, hskdir, hvok, s.status.extractLsb'_word, hserr, hwbusy,
      hbadacc, s.status.word_reserved⟩
  · intro s v hidle
    rw [hostWrite_status hidle, hread, hread, Status.word_writeOneClear, setWidth_and_not]
    exact ⟨rfl, rfl⟩

/-- Settles O15: by what each write sets and what each register reads then. -/
theorem ctrlAndEflagsWrites : Obligations.CtrlAndEflagsWrites := by
  intro s v f hidle
  rw [hostWrite_ctrl hidle, hostWrite_eflags hidle]
  refine ⟨rfl, ?_, rfl, ?_⟩
  · rw [← ctrlWord_bit_zero s v]
    exact rdata_hostRead_selOf_zero .ctrl rfl (.inl hidle)
  · rw [← CurveRegs.eflags_writeEflags]
    exact rdata_hostRead_selOf_zero .eflags rfl (.inl hidle)

/-! ### Reset -/

theorem elem_zeros {w k : Nat} (i : Nat) : elem (Vector.ofFn fun _ : Fin k => (0 : BitVec w)) i = 0 := by
  by_cases h : i < k
  · exact elem_ofFn _ i h
  · simp [elem, h]

theorem Status.word_reset : Status.reset.word = 0 := by decide

/-- R37: every register and element reads 0 after reset, except `ID`. -/
theorem readReg_resetFrom (r : Reg) (i : Nat) (s : State) :
    readReg r i (resetFrom s) = if r = .id then 0x43503037 else 0 := by
  cases r with
  | sk | kw | kb => exact congrArg (BitVec.setWidth 256) (elem_zeros i)
  | status => exact congrArg (BitVec.setWidth 256) Status.word_reset
  | _ => rfl

/-- R250: the reset turn. -/
theorem step_reset {s : State} {rest : List Turn} (h : s.agenda = .reset :: rest) :
    step s = .next (resetFrom { s with agenda := rest }) := by
  rw [step, nextTurn, h]
  rfl

/-- R37: a good read after reset. -/
theorem rdata_hostRead_resetFrom {s : State} {sel : BitVec 8} {idx : BitVec 16} {r : Reg}
    (hloc : locate s.cfg sel idx = some r) :
    (hostRead sel idx (resetFrom s)).rdata = if r = .id then 0x43503037 else 0 := by
  have hidle : (resetFrom s).status.busy = false := rfl
  rw [hostRead_good ((congrArg (locate · sel idx) (resetFrom_cfg s)).trans hloc) (.inl hidle)]
  exact readReg_resetFrom r _ s

/-- Settles O17: after the reset turn a good read shows its register, and all but `ID` are 0. -/
theorem resetReadsZero : Obligations.ResetReadsZero := by
  intro s rest hagenda
  exact ⟨_, step_reset hagenda, rfl, rfl, rfl,
    fun _ _ _ hloc => rdata_hostRead_resetFrom (s := { s with agenda := rest }) hloc⟩

end Sys2Proof.Machine

/-! ## Proofs: what each command writes, and the invariant (spec/10_state.md R23 to R38, spec/60_exceptions.md R220) -/

namespace Sys2Proof.Machine

/-! ### The writes of each command -/

/-- R38: what command `i` may write in state `s`, before its completion bits: one row per command, with the checks of R223 and
the bounds that the invariant rests on. -/
inductive Writes (s : State) : Instr → State → Prop
  | nop : Writes s .nop s
  | zeroize : Writes s .zeroize (zeroized s)
  | csched (e : Bool) (imm : Nat) (sk : Vector Word16 52) : s.status.keyv = true →
      Writes s (.csched e imm) { s with sk := sk, status := { s.status with skv := true, skdir := e } }
  | csinv (sk : Vector Word16 52) (skdir : Bool) : s.status.skv = true →
      Writes s .csinv { s with sk := sk, status := { s.status with skdir := skdir } }
  | cblock (imm : Nat) (b : Block) : imm + 8 ≤ s.cfg.dbufBytes → s.status.skv = true →
      Writes s (.cblock imm) { s with dbuf := storeBlock s.dbuf imm b }
  | kgen (imm : Nat) (w : List Nat) (m a : Nat) (src : Source) :
      Writes s (.kgen imm) { s with knap := keyPairRegs s.knap imm w m a, src := src }
  | kpub (kb : Vector KnapWord 128) : Writes s .kpub { s with knap := { s.knap with kb := kb } }
  | kminv (kinv : KnapWord) : Writes s .kminv { s with knap := { s.knap with kinv := kinv } }
  | kenc (imm : Nat) (kc : KnapTotal) : Writes s (.kenc imm) { s with knap := { s.knap with kc := kc } }
  | kdec (imm : Nat) (kinv : KnapWord) (kkey : BitVec 128) :
      Writes s (.kdec imm) { s with knap := { s.knap with kinv := kinv, kkey := kkey } }
  | eldg (x y : Scalar) : Writes s .eldg { s with ec := { s.ec with epx := x, epy := y, pinf := false } }
  | epadd (p : Point) : Writes s .epadd { s with ec := withResult s.ec p }
  | epmul (p : Point) : Writes s .epmul { s with ec := withResult s.ec p }
  | esinv (einv : Scalar) : Writes s .esinv { s with ec := { s.ec with einv := einv } }
  | ekeygen (d : Nat) (src : Source) :
      Writes s .ekeygen { s with ec := curveKeyPair s.cfg.curve s.ec d, src := src }
  | esign (er es : Scalar) (src : Source) :
      Writes s .esign { s with ec := { s.ec with er := er, es := es }, src := src }
  | everify (vok : Bool) : Writes s .everify { s with status := { s.status with vok := vok } }

/-- R223: an operand check before the rest of a command, which may rely on it. -/
theorem EndsIn.checked {W : State → Prop} {s : State} {c : Prop} [Decidable c] {e : CmdError} {r : Result}
    (h : ¬ c → EndsIn W s r) : EndsIn W s (if c then Machine.raise e s else r) := by
  split
  · exact .raise e
  · next hc => exact h hc

/-- R220, R38: every command that ends in a next state is an error completion, or a success after the writes of its row. -/
theorem exec_endsIn_writes (i : Instr) (s : State) : EndsIn (Writes s i) s (exec i s) := by
  cases i with
  | nop => exact .succeed .nop
  | zeroize => exact .succeed .zeroize
  | csched e imm =>
    exact .check (.checked fun hkeyv => .succeed (.csched e imm _ (Bool.eq_true_of_not_eq_false hkeyv)))
  | csinv => exact .checked fun hskv => .succeed (.csinv _ _ (Bool.eq_true_of_not_eq_false hskv))
  | cblock imm =>
    exact .checked fun hoff => .checked fun hskv =>
      .succeed (.cblock imm _ (Nat.le_of_not_lt hoff) (Bool.eq_true_of_not_eq_false hskv))
  | kgen imm => exact .check (.succeed (.kgen imm _ _ _ _))
  | kpub => exact .check (.check (.succeed (.kpub _)))
  | kminv => exact .check (.check (.succeed (.kminv _)))
  | kenc imm => exact .check (.check (.succeed (.kenc imm _)))
  | kdec imm => exact .check (.check (.check (.check (.succeed (.kdec imm _ _)))))
  | eldg => exact .succeed (.eldg _ _)
  | epadd =>
    refine .check (.check ?_)
    split
    · exact .raise _
    · exact .succeed (.epadd _)
  | epmul =>
    refine .check ?_
    split
    · exact .raise _
    · exact .succeed (.epmul _)
  | esinv => exact .check (.succeed (.esinv _))
  | ekeygen => exact .succeed (.ekeygen _ _)
  | esign =>
    refine .check ?_
    split
    · exact fun t h => nomatch h
    · exact .succeed (.esign _ _ _)
  | everify => exact .succeed (.everify _)

/-- Settles O29: an error completion writes no register, and a success the row of its command alone. -/
theorem writersOfEachRegister : Obligations.WritersOfEachRegister := by
  intro i s t h
  refine ⟨exec_hostSideKept h, fun hi => ?_⟩
  obtain ⟨e, rfl⟩ | ⟨u, hw, rfl⟩ := exec_endsIn_writes i s t h
  · simp
  · cases hw with
    | zeroize => exact absurd rfl hi
    | _ => simp

/-! ### The invariant under commands and completion -/

/-- The invariant but for `STATUS`'s completion bits, which a completion writes whatever they were. -/
def DataInv (s : State) : Prop :=
  MemoryInv s = true ∧ LatchInv s = true ∧ ValidInv s = true ∧ ResultInv s.ec = true

theorem inv_iff (s : State) : Inv s = true ↔ DataInv s ∧ StatusInv s.status = true := by
  simp only [Inv, DataInv, Bool.and_eq_true]
  tauto

theorem memoryInv_iff (s : State) :
    MemoryInv s = true ↔ Memory.wf s.dbuf = true ∧ Memory.inside s.dbuf s.cfg.dbufBytes = true := by
  rw [MemoryInv, Bool.and_eq_true]

theorem validInv_iff (s : State) :
    ValidInv s = true ↔ (s.status.keyv = true ∨ s.key = 0) ∧
      (s.status.skv = true ∨ s.sk = (Vector.ofFn fun _ => 0) ∧ s.status.skdir = false) := by
  simp [ValidInv]

/-- R32: the result point as it is written: infinity has both coordinates 0. -/
theorem resultInv_withResult (r : CurveRegs) (p : Point) : ResultInv (withResult r p) = true := by
  cases p <;> rfl

/-- R123: storing a block inside the buffer keeps it canonical and bounded. -/
theorem memoryInv_storeBlock {s : State} (h : MemoryInv s = true) {off : Nat} (hoff : off + 8 ≤ s.cfg.dbufBytes)
    (b : Block) : MemoryInv { s with dbuf := storeBlock s.dbuf off b } = true := by
  obtain ⟨hwf, hin⟩ := (memoryInv_iff s).1 h
  exact (memoryInv_iff _).2 ⟨storeBlock_wf _ _ _ hwf, storeBlock_inside _ _ _ _ hoff hin⟩

/-- R38: the writes of every command keep the invariant of the data registers. -/
theorem Writes.dataInv {s u : State} {i : Instr} (hw : Writes s i u) (h : DataInv s) : DataInv u := by
  obtain ⟨hmem, hlatch, hvalid, hresult⟩ := h
  obtain ⟨hkey, hsk⟩ := (validInv_iff s).1 hvalid
  cases hw with
  | zeroize => exact ⟨rfl, hlatch, rfl, rfl⟩
  | csched e imm sk hkeyv => exact ⟨hmem, hlatch, (validInv_iff _).2 ⟨.inl hkeyv, .inl rfl⟩, hresult⟩
  | csinv sk skdir hskv => exact ⟨hmem, hlatch, (validInv_iff _).2 ⟨hkey, .inl hskv⟩, hresult⟩
  | cblock imm b hoff => exact ⟨memoryInv_storeBlock hmem hoff b, hlatch, hvalid, hresult⟩
  | epadd p => exact ⟨hmem, hlatch, hvalid, resultInv_withResult _ p⟩
  | epmul p => exact ⟨hmem, hlatch, hvalid, resultInv_withResult _ p⟩
  | _ => exact ⟨hmem, hlatch, hvalid, hresult⟩

/-- R220: a successful completion over sound data meets the invariant. -/
theorem inv_completed {s : State} (h : DataInv s) : Inv { s with status := s.status.completed } = true :=
  (inv_iff _).2 ⟨h, rfl⟩

/-- R220, R221: an error completion over sound data meets the invariant. -/
theorem inv_failed {s : State} (h : DataInv s) (e : CmdError) : Inv { s with status := s.status.failed e } = true :=
  (inv_iff _).2 ⟨h, by cases e <;> rfl⟩

/-- R220: a command ends in a state of the invariant. -/
theorem exec_inv {i : Instr} {s t : State} (h : exec i s = .next t) (hs : Inv s = true) : Inv t = true := by
  obtain ⟨hdata, -⟩ := (inv_iff s).1 hs
  obtain ⟨e, rfl⟩ | ⟨u, hw, rfl⟩ := exec_endsIn_writes i s t h
  · exact inv_failed hdata e
  · exact inv_completed (hw.dataInv hdata)

/-! ### The invariant under the host's turns -/

/-- R250: reset meets the invariant, whatever was in flight. -/
theorem inv_resetFrom (s : State) : Inv (resetFrom s) = true := rfl

/-- Settles O26: the reset state is what reset makes of itself. -/
theorem resetMeetsInvariant : Obligations.ResetMeetsInvariant := inv_resetFrom State.reset

/-- R62, R65, R66: a host read writes nothing the invariant speaks of. -/
theorem inv_hostRead (sel : BitVec 8) (idx : BitVec 16) (s : State) : Inv (hostRead sel idx s) = Inv s := by
  unfold hostRead
  split
  · rfl
  · split <;> rfl

/-- R253: an issue latches the word and clears the completion bits. -/
theorem inv_issue {s : State} (h : Inv s = true) (w : CmdWord) : Inv (issue w s) = true := by
  obtain ⟨⟨hmem, -, hvalid, hresult⟩, -⟩ := (inv_iff s).1 h
  exact (inv_iff _).2 ⟨⟨hmem, beq_self_eq_true w, hvalid, hresult⟩, rfl⟩

/-- R23: clearing sticky bits keeps the completion bits consistent while idle. -/
theorem statusInv_writeOneClear {st : Status} (h : StatusInv st = true) (hidle : st.busy = false) (v : CmdWord) :
    StatusInv (st.writeOneClear v) = true := by
  rw [StatusInv, Status.writeOneClear_busy, hidle]
  rwa [StatusInv, hidle] at h

/-- R63: a good write while idle keeps the invariant. -/
theorem inv_writeReg {r : Reg} {i : Nat} (v : BitVec 256) {s : State} (h : Inv s = true) (hidle : s.status.busy = false)
    (hi : i < elements s.cfg r) : Inv (writeReg r i v s) = true := by
  obtain ⟨hdata, hstatus⟩ := (inv_iff s).1 h
  cases r with
  | cmd => exact inv_issue h _
  | status => exact (inv_iff _).2 ⟨hdata, statusInv_writeOneClear hstatus hidle _⟩
  | key =>
    obtain ⟨hmem, hlatch, hvalid, hresult⟩ := hdata
    obtain ⟨-, hsk⟩ := (validInv_iff s).1 hvalid
    exact (inv_iff _).2 ⟨⟨hmem, hlatch, (validInv_iff _).2 ⟨.inl rfl, hsk⟩, hresult⟩, hstatus⟩
  | dbuf =>
    obtain ⟨hmem, hrest⟩ := hdata
    obtain ⟨hwf, hin⟩ := (memoryInv_iff s).1 hmem
    exact (inv_iff _).2
      ⟨⟨(memoryInv_iff _).2 ⟨Memory.wf_set _ _ _ hwf, Memory.inside_set _ _ _ _ hi hin⟩, hrest⟩, hstatus⟩
  | _ => exact h

/-- R63, R64, R66: a host write keeps the invariant, dropped or not. -/
theorem inv_hostWrite {s : State} (h : Inv s = true) (sel : BitVec 8) (idx : BitVec 16) (v : BitVec 256) :
    Inv (hostWrite sel idx v s) = true := by
  unfold hostWrite
  split
  · exact h
  · next hgood =>
    have hidle : s.status.busy = false := by simp_all
    split
    · exact h
    · next r hr => exact inv_writeReg v h hidle (locate_eq_some.1 hr).2

/-! ### The invariant under a step -/

theorem coreTurn_inv {s t : State} (h : coreTurn s = .next t) (hs : Inv s = true) : Inv t = true := by
  obtain ⟨-, rfl⟩ | ⟨-, i, -, hi⟩ | ⟨-, -, rfl⟩ := coreTurn_cases h
  · exact hs
  · exact exec_inv hi hs
  · exact inv_failed ((inv_iff s).1 hs).1 _

theorem takeTurn_inv {turn : Turn} {rest : List Turn} {s t : State} (h : takeTurn turn rest s = .next t)
    (hs : Inv s = true) : Inv t = true := by
  cases turn with
  | read sel idx => cases h; exact (inv_hostRead ..).trans hs
  | write sel idx v => cases h; exact inv_hostWrite (s := { s with agenda := rest }) hs ..
  | wait =>
    change waitTurn rest s = .next t at h
    unfold waitTurn at h
    split at h
    · cases h; exact (inv_hostRead ..).trans hs
    · exact coreTurn_inv h hs
  | core => exact coreTurn_inv (s := { s with agenda := rest }) h hs
  | reset => cases h; exact inv_resetFrom _
  | rand vs => cases h; exact hs

/-- Settles O25: the next turn is the CORE's or the head of the agenda, and each keeps the invariant. -/
theorem stepKeepsInvariant : Obligations.StepKeepsInvariant := by
  intro s t hs h
  change nextTurn s = .next t at h
  unfold nextTurn at h
  split at h
  · exact coreTurn_inv h hs
  · exact takeTurn_inv h hs

end Sys2Proof.Machine

/-! ## Proofs: `EPADD` and `EPMUL` (spec/43_ec.md R162 to R168) -/

namespace Sys2Proof.Machine

/-! ### Point operands and results -/

/-- R162: infinity, or coordinates below `p`. -/
def Point.Reduced (c : Curve) : Point → Prop
  | .infinity => True
  | .affine x y => x < c.p ∧ y < c.p

theorem OnCurve.reduced {c : Curve} {p : Point} (h : OnCurve c p) : p.Reduced c := by
  match p with
  | .infinity => trivial
  | .affine x y => exact ⟨h.1, h.2.1⟩

theorem pointLegal_iff (c : Curve) (x y : Scalar) (inf : Bool) :
    pointLegal c x y inf = true ↔ inf = true ∨ x.toNat < c.p ∧ y.toNat < c.p := by
  simp [pointLegal, coordsBelow]

/-- R162, R167: the operand check is that the point is reduced. -/
theorem pointLegal_iff_reduced (c : Curve) (x y : Scalar) (inf : Bool) :
    pointLegal c x y inf = true ↔ (pointOf x y inf).Reduced c := by
  rw [pointLegal_iff]
  cases inf <;> simp [pointOf, Point.Reduced]

/-- R32: a reduced point is what its registers hold. -/
theorem pointOf_withResult {c : Curve} (hfit : c.p < 2 ^ 192) (r : CurveRegs) {p : Point} (h : p.Reduced c) :
    pointOf (withResult r p).erx (withResult r p).ery (withResult r p).rinf = p := by
  match p with
  | .infinity => rfl
  | .affine x y =>
    change Point.affine (BitVec.ofNat 192 x).toNat (BitVec.ofNat 192 y).toNat = .affine x y
    rw [BitVec.toNat_ofNat, BitVec.toNat_ofNat, Nat.mod_eq_of_lt (h.1.trans hfit), Nat.mod_eq_of_lt (h.2.trans hfit)]

/-- R32: infinity is written with both coordinates 0. -/
theorem withResult_of_infinite {r : CurveRegs} {p : Point} (h : (withResult r p).rinf = true) :
    (withResult r p).erx = 0 ∧ (withResult r p).ery = 0 := by
  match p with
  | .infinity => exact ⟨rfl, rfl⟩
  | .affine x y => cases h

/-- R163: of reduced points `PointAdd` has a reduced answer unless the formulas would divide by zero. -/
theorem pointAdd_reduced {c : Curve} (hp : Nat.Prime c.p) {p q : Point} (h1 : p.Reduced c) (h2 : q.Reduced c)
    (hdiv : ¬ ZeroDivisor c p q) : ∃ r, pointAdd c p q = some r ∧ r.Reduced c := by
  match p, q with
  | .infinity, q => exact ⟨q, rfl, h2⟩
  | .affine x1 y1, .infinity => exact ⟨.affine x1 y1, rfl, h1⟩
  | .affine x1 y1, .affine x2 y2 =>
    by_cases hopp : x1 = x2 ∧ (y1 + y2) % c.p = 0
    · exact ⟨.infinity, by simp [pointAdd, hopp.1, hopp.2], trivial⟩
    · obtain ⟨-, x3, y3, hadd, -, hx3, hy3, -⟩ := pointAdd_thirdPoint hp h1.1 h2.1 hopp hdiv
      exact ⟨.affine x3 y3, hadd, hx3, hy3⟩

/-! ### `EPADD` -/

/-- R167: `EPADD` of legal operands with a sum. -/
theorem exec_epadd {s : State} {p : Point} (hP : (pointP s.ec).Reduced s.cfg.curve)
    (hQ : (pointQ s.ec).Reduced s.cfg.curve) (hsum : pointAdd s.cfg.curve (pointP s.ec) (pointQ s.ec) = some p) :
    exec .epadd s = .next { s with ec := withResult s.ec p, status := doneStatus s.status } := by
  change execEpadd s = _
  rw [execEpadd, if_neg (by simpa using (pointLegal_iff_reduced ..).2 hP),
    if_neg (by simpa using (pointLegal_iff_reduced ..).2 hQ), hsum]
  rfl

/-- Settles O50: the sum of reduced points is reduced, so the result registers hold it. -/
theorem epaddCompletes : Obligations.EpaddCompletes := by
  intro s hwf hp hP hQ hdiv
  have hP' := (pointLegal_iff_reduced ..).1 ((pointLegal_iff ..).2 hP)
  have hQ' := (pointLegal_iff_reduced ..).1 ((pointLegal_iff ..).2 hQ)
  obtain ⟨r, hsum, hr⟩ := pointAdd_reduced hp hP' hQ' hdiv
  have hregs := pointOf_withResult (Curve.wf_field (Config.wf_curve hwf)).2 s.ec hr
  have hlegal := (pointLegal_iff ..).1 ((pointLegal_iff_reduced ..).2 (hregs.symm ▸ hr))
  exact ⟨_, exec_epadd hP' hQ' hsum, rfl, hsum.trans (congrArg some hregs.symm), withResult_of_infinite,
    fun hfinite => hlegal.resolve_left (Bool.eq_false_iff.1 hfinite)⟩

/-! ### `EPMUL` -/

/-- R164: with no bit of the scalar left the loop keeps its result. -/
theorem scalarLoop_zero {c : Curve} (i : Nat) :
    ∀ {r a t : Point}, scalarLoop c i 0 r a = some t → t = r := by
  induction i with
  | zero => exact fun h => (Option.some.inj h).symm
  | succ i ih =>
    intro r a t h
    simp only [scalarLoop, Nat.zero_mod, zero_ne_one, if_false, Nat.zero_div] at h
    split at h
    · cases h
    · exact ih h

theorem scalarMul_zero {c : Curve} {p t : Point} (h : scalarMul c 0 p = some t) : t = .infinity :=
  scalarLoop_zero _ h

/-- R164: the first iteration adds the point to infinity, and the others add nothing. -/
theorem scalarLoop_one {c : Curve} {i : Nat} {p t : Point} (h : scalarLoop c (i + 1) 1 .infinity p = some t) :
    t = p := by
  simp only [scalarLoop, Nat.one_mod, if_true, pointAdd] at h
  split at h
  · cases h
  · exact scalarLoop_zero _ h

theorem scalarMul_one {c : Curve} {p t : Point} (h : scalarMul c 1 p = some t) : t = p :=
  scalarLoop_one (i := 191) h

/-- R164: every multiple of infinity is infinity. -/
theorem scalarMul_infinity (c : Curve) (k : Nat) : scalarMul c k .infinity = some .infinity := by
  obtain ⟨t, ht, rfl⟩ := scalarLoop_closed (c := c) (S := (· = .infinity))
    (fun p q hp hq => ⟨.infinity, by rw [hp, hq]; rfl, rfl⟩) Config.ecw k .infinity .infinity rfl rfl
  exact ht

/-- R168: `EPMUL` of a legal operand with a multiple. -/
theorem exec_epmul {s : State} {p : Point} (hP : (pointP s.ec).Reduced s.cfg.curve)
    (hmul : scalarMul s.cfg.curve s.ec.ek.toNat (pointP s.ec) = some p) :
    exec .epmul s = .next { s with ec := withResult s.ec p, status := doneStatus s.status } := by
  change execEpmul s = _
  rw [execEpmul, if_neg (by simpa using (pointLegal_iff_reduced ..).2 hP), hmul]
  rfl

/-- Settles O51: the multiple of a point of the curve is on the curve, so the result registers hold it. -/
theorem epmulCompletes : Obligations.EpmulCompletes := by
  intro s hwf hp hon
  obtain ⟨r, hmul, hr⟩ := scalarMul_onCurve hp hon s.ec.ek.toNat
  have hregs := pointOf_withResult (Curve.wf_field (Config.wf_curve hwf)).2 s.ec hr.reduced
  have hinf : s.ec.ek = 0 ∨ s.ec.pinf = true → r = .infinity := by
    rintro (hk | hpinf)
    · rw [hk] at hmul
      exact scalarMul_zero hmul
    · have hP : pointP s.ec = .infinity := by simp [pointP, pointOf, hpinf]
      rw [hP, scalarMul_infinity] at hmul
      exact (Option.some.inj hmul).symm
  have hone : s.ec.ek = 1 → r = pointP s.ec := fun hk => scalarMul_one (by rwa [hk] at hmul)
  refine ⟨_, exec_epmul hon.reduced hmul, rfl, hmul.trans (congrArg some hregs.symm), hregs.symm ▸ hr,
    withResult_of_infinite, fun h => ?_, fun h => hregs.trans (hone h)⟩
  rw [hinf h]
  rfl

end Sys2Proof.Machine

/-! ## Proofs: the port while busy, and bad accesses (spec/20_memory.md R64 to R66) -/

namespace Sys2Proof.Machine

/-! ### Dropped accesses -/

/-- R66: an undefined select, or an index beyond the last element, reaches no register. -/
theorem locate_eq_none {cfg : Config} {sel : BitVec 8} {idx : BitVec 16} :
    locate cfg sel idx = none ↔ regOf sel = none ∨ ∃ r, regOf sel = some r ∧ elements cfg r ≤ idx.toNat := by
  unfold locate
  split
  · next hreg => simp [hreg]
  · next r hreg => simp [hreg]

/-- R66: the registers of R20 whose access is RO. -/
theorem readOnly_eq_true {r : Reg} :
    readOnly r = true ↔ r ∈ [Reg.id, Reg.sk, Reg.kinv, Reg.erx, Reg.ery, Reg.einv] := by
  cases r <;> decide

/-- R66: an access that reaches no register is a bad write. -/
theorem badWrite_of_locate_eq_none {cfg : Config} {sel : BitVec 8} {idx : BitVec 16}
    (h : locate cfg sel idx = none) : badWrite cfg sel idx = true := by
  rw [badWrite, h]

/-- R66: so is every access to a read-only register, whatever the index. -/
theorem badWrite_of_readOnly {cfg : Config} {sel : BitVec 8} {r : Reg} (hreg : regOf sel = some r)
    (hro : readOnly r = true) (idx : BitVec 16) : badWrite cfg sel idx = true := by
  unfold badWrite
  split
  · rfl
  · next r' hloc =>
    obtain ⟨hreg', -⟩ := locate_eq_some.1 hloc
    rwa [← Option.some.inj (hreg.symm.trans hreg')]

/-- R64, R66: a write that is bad, or that meets a busy CORE, is dropped. -/
theorem hostWrite_dropped {s : State} {sel : BitVec 8} {idx : BitVec 16}
    (h : s.status.busy = true ∨ badWrite s.cfg sel idx = true) (v : BitVec 256) :
    hostWrite sel idx v s = markDropped s.status.busy (badWrite s.cfg sel idx) s :=
  if_pos (by simpa using h)

/-- R66: a bad read answers 0. -/
theorem hostRead_bad {s : State} {sel : BitVec 8} {idx : BitVec 16} (hloc : locate s.cfg sel idx = none) :
    hostRead sel idx s = { s with rdata := 0, status := { s.status with badacc := true } } := by
  rw [hostRead, hloc]

/-- Settles O9: the write is dropped because the CORE is busy, and is marked bad exactly when it is. -/
theorem writeWhileBusyIsDropped : Obligations.WriteWhileBusyIsDropped := by
  intro s sel idx v hbusy
  rw [hostWrite_dropped (.inl hbusy)]
  constructor
  · intro hgood
    rw [hgood]
    simp [markDropped, hbusy]
  · intro hbad
    rw [hbad]
    simp [markDropped, hbusy]

/-- Settles O11: what reaches no register is bad both ways, and a read-only register is bad to write. -/
theorem badAccessIsDropped : Obligations.BadAccessIsDropped := by
  intro s sel idx v
  refine ⟨fun h => hostRead_bad (locate_eq_none.2 h), fun h => ?_⟩
  have hbad : badWrite s.cfg sel idx = true := by
    obtain hundef | hbeyond | ⟨r, hr, hreg⟩ := h
    · exact badWrite_of_locate_eq_none (locate_eq_none.2 (.inl hundef))
    · exact badWrite_of_locate_eq_none (locate_eq_none.2 (.inr hbeyond))
    · exact badWrite_of_readOnly hreg (readOnly_eq_true.2 hr) idx
  rw [hostWrite_dropped (.inr hbad), hbad]
  simp [markDropped]

/-! ### Reads while busy -/

/-- R65: the registers that read exactly while busy. -/
theorem exactWhileBusy_eq_false {r : Reg} :
    exactWhileBusy r = false ↔ r ∉ [Reg.id, Reg.cmd, Reg.status, Reg.ctrl] := by
  cases r <;> decide

/-- R65: a good read of any other register while busy answers the next free value, cut to the register's width. -/
theorem hostRead_free {s : State} {sel : BitVec 8} {idx : BitVec 16} {r : Reg} (hbusy : s.status.busy = true)
    (hloc : locate s.cfg sel idx = some r) (hr : exactWhileBusy r = false) :
    hostRead sel idx s =
      { s with
        rdata := BitVec.ofNat 256 ((Config.freeRead s.src.fresh).toNat % 2 ^ width r)
        src := { s.src with fresh := s.src.fresh + 1 } } := by
  simp only [hostRead, hloc]
  exact if_pos (by simp [hbusy, hr])

/-- R65: a register with one element that reads exactly, busy or not. -/
theorem hostRead_exact (r : Reg) (s : State) (h1 : elements s.cfg r = 1) (hr : exactWhileBusy r = true) :
    hostRead (selOf r) 0 s = { s with rdata := readReg r 0 s } :=
  hostRead_good (locate_selOf (idx := 0) (h1 ▸ Nat.zero_lt_one)) (.inr hr)

/-- Settles O10: four registers read exactly, and any other answers a free value of its width. -/
theorem readsWhileBusy : Obligations.ReadsWhileBusy := by
  intro s hbusy
  refine ⟨hostRead_exact .id s rfl rfl, hostRead_exact .cmd s rfl rfl, hostRead_exact .status s rfl rfl, ?_, ?_⟩
  · rw [← ctrlWord_port]
    exact hostRead_exact .ctrl s rfl rfl
  · intro sel idx r hloc hr
    rw [hostRead_free hbusy hloc (exactWhileBusy_eq_false.2 hr), ← setWidth_setWidth_eq_ofNat]
    exact ⟨toNat_setWidth_port_lt _, rfl⟩

end Sys2Proof.Machine

/-! ## Proofs: decoding an encoded command (spec/30_encoding.md R80 to R88) -/

namespace Sys2Proof

/-- R80: `OP` is 8 bits. -/
theorem opcode_lt (i : Instr) : opcode i < 2 ^ 8 := by
  cases i <;> simp [opcode]

/-- R80: `E` is one bit. -/
theorem dirField_lt (i : Instr) : dirField i < 2 := by
  cases i with
  | csched e imm => cases e <;> simp [dirField]
  | _ => exact Nat.zero_lt_two

/-- R81: `IMM` of a well-formed command is 16 bits. -/
theorem immField_lt {i : Instr} (h : i.wellFormed = true) : immField i < 2 ^ 16 := by
  cases i with
  | csched e imm => exact of_decide_eq_true h
  | cblock imm | kgen imm | kenc imm | kdec imm => exact of_decide_eq_true h
  | _ => decide

/-- R88: the word of a well-formed command is the sum of its fields, each at its place. -/
theorem toNat_encode {i : Instr} (h : i.wellFormed = true) :
    (encode i).toNat = opcode i * 2 ^ 24 + dirField i * 2 ^ 16 + immField i := by
  have hop := opcode_lt i
  have hdir := dirField_lt i
  have himm := immField_lt h
  rw [encode, BitVec.toNat_ofNat]
  omega

/-- R80: the fields of the word of a well-formed command, as the decoder cuts them out. -/
theorem slices_encode {i : Instr} (h : i.wellFormed = true) :
    slice (encode i).toNat 31 24 = opcode i ∧
    slice (encode i).toNat 23 17 = 0 ∧
    slice (encode i).toNat 16 16 = dirField i ∧
    slice (encode i).toNat 15 0 = immField i ∧
    slice (encode i).toNat 23 16 = dirField i ∧
    slice (encode i).toNat 23 0 = dirField i * 2 ^ 16 + immField i := by
  have hop := opcode_lt i
  have hdir := dirField_lt i
  have himm := immField_lt h
  simp only [toNat_encode h, slice]
  omega

/-- R85, R88: decoding the word of a well-formed command gives the command back. -/
theorem decode_encode {i : Instr} (h : i.wellFormed = true) : decode (encode i) = .ok i := by
  obtain ⟨hop, hres, hdir, himm, hresI, hresN⟩ := slices_encode h
  cases i with
  | csched e imm =>
    simp only [decode, hop, opcode, decodeFormatD, hres, hdir, himm, immField]
    cases e <;> rfl
  | cblock imm | kgen imm | kenc imm | kdec imm =>
    simp only [decode, hop, opcode, decodeFormatI, hresI, himm, dirField, immField, if_true]
  | _ => simp only [decode, hop, opcode, decodeFormatN, hresN, dirField, immField, Nat.zero_mul, Nat.add_zero, if_true]

end Sys2Proof

/-! ## Proofs: what a step runs (spec/70_reset_and_hazards.md R253, spec/20_memory.md R62, R63, R67) -/

namespace Sys2Proof.Machine

/-- R253: the turn of a busy CORE runs the command in the latch. -/
theorem coreTurn_busy {s : State} {i : Instr} (hbusy : s.status.busy = true) (hdec : decode s.cmdl = .ok i) :
    coreTurn s = exec i s := by
  rw [coreTurn, if_pos hbusy, complete, hdec]

/-- R253: the CORE has the turn when nobody else has one. -/
theorem step_of_agenda_nil {s : State} (h : s.agenda = []) : step s = coreTurn s := by
  rw [step, nextTurn, h]

/-- R7: a step is the turn at the head of the agenda. -/
theorem step_of_agenda_cons {s : State} {t : Turn} {rest : List Turn} (h : s.agenda = t :: rest) :
    step s = takeTurn t rest s := by
  rw [step, nextTurn, h]

/-- R87: while `DONE` is 0 the CORE moves and the host goes on waiting. -/
theorem waitTurn_of_not_done {s : State} (h : s.status.done = false) (rest : List Turn) :
    waitTurn rest s = coreTurn s :=
  if_neg (by simp [h])

/-- R87, R254: the wait is over with the read that sees `DONE`. -/
theorem waitTurn_of_done {s : State} (h : s.status.done = true) (rest : List Turn) :
    waitTurn rest s = .next { hostRead (selOf .status) 0 s with agenda := rest } :=
  if_pos h

/-- R253: a word placed to be run is decoded from the latch of its own issue. -/
theorem step_withFetchWord {s : State} {w : CmdWord} {i : Instr} (hdec : decode w = .ok i) :
    step (s.withFetchWord 32 w.toNat) = exec i (issue w s) := by
  have hplace : s.withFetchWord 32 w.toNat = placeCommand w s := by
    rw [State.withFetchWord, Nat.mod_eq_of_lt w.isLt, BitVec.ofNat_toNat, BitVec.setWidth_eq]
  rw [hplace, step_of_agenda_cons (placeCommand_agenda w s)]
  exact coreTurn_busy (s := issue w s) rfl hdec

/-- Settles O5: the CORE's turns run the decoded latch, and every other turn is its own line of `takeTurn`. -/
theorem stepRunsTheDecodedCommand : Obligations.StepRunsTheDecodedCommand := by
  refine ⟨?core, ?nobody, ?waiting, ?placed, ?read, ?write, ?rand, ?waited⟩
  case core =>
    intro s i rest hbusy hdec hagenda
    rw [step_of_agenda_cons hagenda]
    exact coreTurn_busy (s := { s with agenda := rest }) hbusy hdec
  case nobody =>
    intro s i hbusy hdec hagenda
    rw [step_of_agenda_nil hagenda, coreTurn_busy hbusy hdec]
  case waiting =>
    intro s i rest hbusy hdone hdec hagenda
    rw [step_of_agenda_cons hagenda, takeTurn, waitTurn_of_not_done hdone, coreTurn_busy hbusy hdec]
  case placed => exact fun s i hwf => step_withFetchWord (decode_encode hwf)
  case read => exact fun s sel idx rest hagenda => step_of_agenda_cons hagenda
  case write => exact fun s sel idx v rest hagenda => step_write hagenda
  case rand => exact fun s vs rest hagenda => step_of_agenda_cons hagenda
  case waited =>
    intro s rest hagenda hdone
    rw [step_of_agenda_cons hagenda]
    exact waitTurn_of_done hdone rest

end Sys2Proof.Machine

/-! ## Proofs: legal words and the match and mask table (spec/30_encoding.md R80 to R88) -/

namespace Sys2Proof

open Machine Laws

/-- Settles O1: the decoder cuts out the fields the encoder put together. -/
theorem decodeOfEncode : Obligations.DecodeOfEncode := fun _ h => decode_encode h

/-- Settles O4: each worked word is evaluated. -/
theorem workedEncodings : Obligations.WorkedEncodings :=
  ⟨rfl, rfl, rfl, rfl, rfl, rfl, rfl, rfl, rfl, rfl, rfl, rfl⟩

/-! ### The fields of a legal word -/

/-- R80: the word `v` has the fields of the command `i`, and 0 in the bits that every format reserves. -/
def HasFieldsOf (v : Nat) (i : Instr) : Prop :=
  slice v 31 24 = opcode i ∧ slice v 23 17 = 0 ∧ slice v 16 16 = dirField i ∧ slice v 15 0 = immField i

/-- Format N: bits 23:0 are checked to be 0. -/
theorem hasFieldsOf_of_formatN {v : Nat} {i j : Instr} (h : decodeFormatN v j = .ok i)
    (hop : slice v 31 24 = opcode j) (hdir : dirField j = 0) (himm : immField j = 0) : HasFieldsOf v i := by
  unfold decodeFormatN at h
  split at h
  · next hres =>
    cases h
    refine ⟨hop, ?_, ?_, ?_⟩ <;> simp only [slice, hdir, himm] at hres ⊢ <;> omega
  · cases h

/-- Format I: bits 23:16 are checked to be 0, the others are `IMM`. -/
theorem hasFieldsOf_of_formatI {v : Nat} {i : Instr} {mk : Nat → Instr} (h : decodeFormatI v mk = .ok i)
    (hop : ∀ n, slice v 31 24 = opcode (mk n)) (hdir : ∀ n, dirField (mk n) = 0) (himm : ∀ n, immField (mk n) = n) :
    HasFieldsOf v i := by
  unfold decodeFormatI at h
  split at h
  · next hres =>
    cases h
    refine ⟨hop _, ?_, ?_, (himm _).symm⟩ <;> simp only [slice, hdir] at hres ⊢ <;> omega
  · cases h

/-- Format D, which `CSCHED` alone has: `E` is bit 16 itself. -/
theorem hasFieldsOf_of_formatD {v : Nat} {i : Instr} (h : decodeFormatD v .csched = .ok i)
    (hop : slice v 31 24 = 0x10) : HasFieldsOf v i := by
  unfold decodeFormatD at h
  split at h
  · next hres =>
    cases h
    refine ⟨hop, hres, ?_, rfl⟩
    have hbit : slice v 16 16 < 2 := Nat.mod_lt _ Nat.two_pos
    obtain hzero | hone : slice v 16 16 = 0 ∨ slice v 16 16 = 1 := by omega
    · simp [dirField, hzero]
    · simp [dirField, hone]
  · cases h

/-- R83, R85: a legal word has the fields of the command it decodes to. (The cases are the decoder's lines, in order: the third
is format D, the fifth, sixth, ninth and tenth format I, the last an unassigned opcode.) -/
theorem hasFieldsOf_of_decode {w : CmdWord} {i : Instr} (h : decode w = .ok i) : HasFieldsOf w.toNat i := by
  unfold decode at h
  dsimp only at h
  split at h
  case h_3 hop => exact hasFieldsOf_of_formatD h hop
  case h_5 hop | h_6 hop | h_9 hop | h_10 hop =>
    exact hasFieldsOf_of_formatI h (fun _ => hop) (fun _ => rfl) (fun _ => rfl)
  case h_18 => cases h
  all_goals next hop => exact hasFieldsOf_of_formatN h hop rfl rfl

/-- R81: a command is well formed when `IMM` fits its 16 bits. -/
theorem wellFormed_of_immField_lt {i : Instr} (h : immField i < 2 ^ 16) : i.wellFormed = true := by
  cases i with
  | csched e imm => exact decide_eq_true h
  | cblock imm | kgen imm | kenc imm | kdec imm => exact decide_eq_true h
  | _ => rfl

theorem HasFieldsOf.wellFormed {v : Nat} {i : Instr} (h : HasFieldsOf v i) : i.wellFormed = true := by
  obtain ⟨-, -, -, himm⟩ := h
  exact wellFormed_of_immField_lt (himm ▸ Nat.mod_lt _ (Nat.two_pow_pos 16))

/-- R88: a word with the fields of a command is the word of that command. -/
theorem HasFieldsOf.encode_eq {w : CmdWord} {i : Instr} (h : HasFieldsOf w.toNat i) : encode i = w := by
  obtain ⟨hop, hres, hdir, himm⟩ := h
  have hw := w.isLt
  have hsum : opcode i * 2 ^ 24 + dirField i * 2 ^ 16 + immField i = w.toNat := by
    simp only [slice] at hop hres hdir himm
    omega
  rw [encode, hsum, BitVec.ofNat_toNat, BitVec.setWidth_eq]

/-- Settles O2: the decoder checks or uses every bit, so the fields it read make up the word. -/
theorem legalWordIsItsEncoding : Obligations.LegalWordIsItsEncoding := by
  intro w i h
  exact ⟨(hasFieldsOf_of_decode h).wellFormed, (hasFieldsOf_of_decode h).encode_eq⟩

/-! ### The rows of the match and mask table -/

/-- R82: the word of a well-formed command fits the row of the command. -/
theorem encode_fitsRow (i : Instr) : MatchMask.Statement i :=
  match i with
  | .nop => MatchMask.nop
  | .zeroize => MatchMask.zeroize
  | .csched e imm => MatchMask.csched e imm
  | .csinv => MatchMask.csinv
  | .cblock imm => MatchMask.cblock imm
  | .kgen imm => MatchMask.kgen imm
  | .kpub => MatchMask.kpub
  | .kminv => MatchMask.kminv
  | .kenc imm => MatchMask.kenc imm
  | .kdec imm => MatchMask.kdec imm
  | .eldg => MatchMask.eldg
  | .epadd => MatchMask.epadd
  | .epmul => MatchMask.epmul
  | .esinv => MatchMask.esinv
  | .ekeygen => MatchMask.ekeygen
  | .esign => MatchMask.esign
  | .everify => MatchMask.everify

/-- R80, R82: how many low bits the row of a command leaves free for operands: none in format N, `IMM` in format I, `IMM`
and `E` in format D. -/
def operandBits : Instr → Nat
  | .csched _ _ => 17
  | .cblock _ | .kgen _ | .kenc _ | .kdec _ => 16
  | _ => 0

/-- R82: a row matches the opcode and checks every bit above the operands. -/
theorem matchMask_eq (i : Instr) :
    matchMask i = (BitVec.ofNat 32 (opcode i * 2 ^ 24), BitVec.allOnes 32 <<< operandBits i) := by
  cases i <;> simp only [matchMask, opcode, operandBits] <;> decide

/-- A mask of all bits from `k` on keeps the word's part above `k`. -/
theorem toNat_div_of_and_highMask {n k : Nat} {w m : BitVec n} (h : w &&& BitVec.allOnes n <<< k = m) :
    w.toNat / 2 ^ k = m.toNat / 2 ^ k := by
  have hshift : (w &&& BitVec.allOnes n <<< k) >>> k = w >>> k := by
    apply BitVec.eq_of_getLsbD_eq
    intro b hb
    by_cases hin : k + b < n
    · simp [hin]
    · simp [BitVec.getLsbD_of_ge w (k + b) (by omega)]
  rw [← h, ← Nat.shiftRight_eq_div_pow, ← Nat.shiftRight_eq_div_pow, ← BitVec.toNat_ushiftRight,
    ← BitVec.toNat_ushiftRight, hshift]

/-- R82: a word that fits a row has the row's opcode, and 0 in the reserved bits between it and the operands. -/
theorem slices_of_fitsRow {w : CmdWord} {j : Instr} (h : w &&& (matchMask j).2 = (matchMask j).1) :
    slice w.toNat 31 24 = opcode j ∧ slice w.toNat 23 (operandBits j) = 0 := by
  rw [matchMask_eq] at h
  have hdiv := toNat_div_of_and_highMask h
  have hop := opcode_lt j
  rw [BitVec.toNat_ofNat, Nat.mod_eq_of_lt (by omega)] at hdiv
  have hbits : operandBits j = 0 ∨ operandBits j = 16 ∨ operandBits j = 17 := by cases j <;> simp [operandBits]
  rcases hbits with hk | hk | hk <;> simp only [hk, slice] at hdiv ⊢ <;> omega

/-- R85: a word that fits a row decodes to a command of that row. -/
theorem decode_of_fitsRow {w : CmdWord} {j : Instr} (h : w &&& (matchMask j).2 = (matchMask j).1) :
    ∃ i, decode w = .ok i ∧ matchMask i = matchMask j := by
  obtain ⟨hop, hres⟩ := slices_of_fitsRow h
  cases j with
  | csched e imm =>
    simp only [decode, hop, opcode, decodeFormatD]
    exact ⟨_, if_pos hres, rfl⟩
  | cblock imm | kgen imm | kenc imm | kdec imm =>
    simp only [decode, hop, opcode, decodeFormatI]
    exact ⟨_, if_pos hres, rfl⟩
  | _ =>
    simp only [decode, hop, opcode, decodeFormatN]
    exact ⟨_, if_pos hres, rfl⟩

/-- R82, R83: a legal word fits the row of the command it decodes to. -/
theorem fitsRow_of_decode {w : CmdWord} {i : Instr} (h : decode w = .ok i) :
    w &&& (matchMask i).2 = (matchMask i).1 := by
  obtain ⟨hwf, rfl⟩ := legalWordIsItsEncoding w i h
  exact encode_fitsRow i hwf

/-- Settles O3: a legal word is the encoding of its command, which fits the row; and the row fixes what the decoder checks. -/
theorem legalIffMatchesRow : Obligations.LegalIffMatchesRow := by
  refine ⟨fun w i => fitsRow_of_decode, fun w j => decode_of_fitsRow, fun w => ⟨?illegal, ?unmatched⟩⟩
  case illegal =>
    rintro ⟨e, he⟩ j hfits
    obtain ⟨i, hi, -⟩ := decode_of_fitsRow hfits
    exact absurd (hi.symm.trans he) (by simp)
  case unmatched =>
    intro hnone
    match h : decode w with
    | .ok i => exact absurd (fitsRow_of_decode h) (hnone i)
    | .error e => exact ⟨e, rfl⟩

end Sys2Proof

/-! ## Proofs: an illegal word in flight (spec/30_encoding.md R83, spec/60_exceptions.md R220) -/

namespace Sys2Proof.Machine

/-- R83, R253: the turn of a busy CORE completes an illegal word with `IllegalCommand`. -/
theorem coreTurn_illegal {s : State} {e : DecodeError} (hbusy : s.status.busy = true) (hdec : decode s.cmdl = .error e) :
    coreTurn s = .next (failState s 0x01) := by
  rw [coreTurn, if_pos hbusy, complete, hdec]
  rfl

/-- Settles O6: each of the three turns is the CORE's. -/
theorem illegalWordCompletes : Obligations.IllegalWordCompletes := by
  intro s e rest hbusy hdec
  refine ⟨?nobody, ?core, ?waiting⟩
  case nobody =>
    intro hagenda
    rw [step_of_agenda_nil hagenda, coreTurn_illegal hbusy hdec]
  case core =>
    intro hagenda
    rw [step_of_agenda_cons hagenda]
    exact coreTurn_illegal (s := { s with agenda := rest }) hbusy hdec
  case waiting =>
    intro hagenda hdone
    rw [step_of_agenda_cons hagenda, takeTurn, waitTurn_of_not_done hdone, coreTurn_illegal hbusy hdec]

end Sys2Proof.Machine

/-! ## Proofs: the resampling loops on ready values (spec/70_reset_and_hazards.md R257) -/

namespace Sys2Proof.Machine

/-- R142, R172, R257: among the ready values `l`, the draw `k` is the first that is accepted, after values of the range that
are rejected; `rest` stays ready. -/
def FirstAccepted {α : Type} (lo hi : Nat) (ok : Nat → Option α) (l rejected : List Nat) (k : Nat) (rest : List Nat) :
    Prop :=
  l = rejected ++ k :: rest ∧ (∀ b ∈ rejected, (lo ≤ b ∧ b ≤ hi) ∧ ok b = none) ∧ (lo ≤ k ∧ k ≤ hi) ∧ ok k ≠ none

/-- The loop over the ready values takes the first accepted one. -/
theorem takeAccepted_spec {α : Type} {lo hi : Nat} (h : lo ≤ hi) {ok : Nat → Option α} {l : List Nat} {a : α}
    {left : List Nat} (ht : takeAccepted lo hi ok l = some (a, left)) :
    ∃ v, (lo ≤ v ∧ v ≤ hi) ∧ ok v = some a ∧
      ∀ rejected k rest, FirstAccepted lo hi ok l rejected k rest → v = k ∧ left = rest := by
  induction l with
  | nil => cases ht
  | cons d l ih =>
    unfold takeAccepted at ht
    split at ht
    · next b hok =>
      cases ht
      refine ⟨intoRange lo hi d, intoRange_mem lo hi d h, hok, ?_⟩
      rintro (_ | ⟨r, rejected⟩) k rest ⟨hl, hrej, hk, -⟩ <;> cases hl
      · exact ⟨intoRange_of_mem lo hi d hk, rfl⟩
      · obtain ⟨hmem, hnone⟩ := hrej d (List.mem_cons_self ..)
        rw [intoRange_of_mem lo hi d hmem, hnone] at hok
        cases hok
    · next hnone =>
      obtain ⟨v, hv, hok, hfirst⟩ := ih ht
      refine ⟨v, hv, hok, ?_⟩
      rintro (_ | ⟨r, rejected⟩) k rest ⟨hl, hrej, hk, hacc⟩ <;> cases hl
      · rw [intoRange_of_mem lo hi d hk] at hnone
        exact absurd hnone hacc
      · exact hfirst rejected k rest ⟨rfl, fun b hb => hrej b (List.mem_cons_of_mem _ hb), hk, hacc⟩

/-- The loop over the ready values fails only where there is no accepted one. -/
theorem takeAccepted_ne_none {α : Type} {lo hi : Nat} {ok : Nat → Option α} {rejected : List Nat} {k : Nat}
    {rest l : List Nat} (h : FirstAccepted lo hi ok l rejected k rest) : takeAccepted lo hi ok l ≠ none := by
  obtain ⟨rfl, -, hk, hacc⟩ := h
  induction rejected with
  | nil =>
    rw [List.nil_append, takeAccepted, intoRange_of_mem lo hi k hk]
    split
    · exact Option.some_ne_none _
    · next hnone => exact absurd hnone hacc
  | cons r rejected ih =>
    rw [List.cons_append, takeAccepted]
    split
    · exact Option.some_ne_none _
    · exact ih

/-- R257: what the resampling loop ends with is an accepted value of the range, the first one ready where one is. -/
theorem drawUntil_spec {α : Type} {lo hi : Nat} (h : lo ≤ hi) {ok : Nat → Option α} {src src' : Source} {a : α}
    (hd : drawUntil lo hi ok src = some (a, src')) :
    ∃ v, (lo ≤ v ∧ v ≤ hi) ∧ ok v = some a ∧
      ∀ rejected k rest, FirstAccepted lo hi ok src.rand rejected k rest → v = k ∧ src'.rand = rest := by
  cases ht : takeAccepted lo hi ok src.rand with
  | some ready =>
    rw [drawUntil, ht] at hd
    cases hd
    exact takeAccepted_spec h ht
  | none =>
    obtain ⟨v, hlo, hhi, hok⟩ := drawUntil_some lo hi ok src h a src' hd
    exact ⟨v, ⟨hlo, hhi⟩, hok, fun _ _ _ hfirst => absurd ht (takeAccepted_ne_none hfirst)⟩

end Sys2Proof.Machine

/-! ## Proofs: `ESIGN` (spec/43_ec.md R171, R172) -/

namespace Sys2Proof.Machine

/-- R172: what a successful attempt answers. -/
theorem signAttempt_eq_some {c : Curve} {d z k r s : Nat} (h : signAttempt c d z k = some (r, s)) :
    (∃ x y, scalarMul c k (basePoint c) = some (.affine x y) ∧ r = x % c.n) ∧ r ≠ 0 ∧
      s = modInv k c.n * (z + r * d) % c.n ∧ s ≠ 0 := by
  unfold signAttempt at h
  split at h
  · next x y hmul =>
    dsimp only at h
    split at h
    · cases h
    · next hr =>
      split at h
      · cases h
      · next hs =>
        cases h
        exact ⟨⟨x, y, hmul, rfl⟩, hr, rfl, hs⟩
  · cases h

/-- R165: multiplying by `k` undoes its inverse modulo the prime order. -/
theorem modInv_mul_mul_mod {n k : Nat} (hn : Nat.Prime n) (h0 : 0 < k) (hk : k < n) (v : Nat) :
    modInv k n * v % n * k % n = v % n := by
  have hmod : k % n = k := Nat.mod_eq_of_lt hk
  obtain ⟨-, -, hinv⟩ := modInv_spec k n hn.two_le (gcd_mod_eq_one_of_prime hn (by omega))
  calc modInv k n * v % n * k % n = k * modInv k n * v % n := by rw [Nat.mod_mul_mod]; ring_nf
    _ = v % n := by rw [Nat.mul_mod, hinv, one_mul, Nat.mod_mod]

/-- R172: an accepted `k` gives `r` and `s` in `[1, n-1]` with `s k = z + r d` modulo `n`. -/
theorem signAttempt_spec {c : Curve} (hn : Nat.Prime c.n) {d z k r s : Nat} (h0 : 0 < k) (hk : k < c.n)
    (h : signAttempt c d z k = some (r, s)) :
    (∃ x y, scalarMul c k (basePoint c) = some (.affine x y) ∧ r = x % c.n) ∧ (0 < r ∧ r < c.n) ∧ (0 < s ∧ s < c.n) ∧
      s * k % c.n = (z + r * d) % c.n := by
  obtain ⟨⟨x, y, hmul, rfl⟩, hr, rfl, hs⟩ := signAttempt_eq_some h
  exact ⟨⟨x, y, hmul, rfl⟩, ⟨Nat.pos_of_ne_zero hr, Nat.mod_lt _ hn.pos⟩, ⟨Nat.pos_of_ne_zero hs, Nat.mod_lt _ hn.pos⟩,
    modInv_mul_mul_mod hn h0 hk _⟩

/-- R172: `ESIGN` with `ED` in range, on the signature that the resampling loop ends with. -/
theorem exec_esign {s : State} {r sg : Nat} {src : Source} (h1 : 1 ≤ s.ec.ed.toNat)
    (hn : s.ec.ed.toNat ≤ s.cfg.curve.n - 1)
    (hd : drawUntil 1 (s.cfg.curve.n - 1) (signWith s) s.src = some ((r, sg), src)) :
    exec .esign s = .next { s with
      ec := { s.ec with er := BitVec.ofNat 192 r, es := BitVec.ofNat 192 sg }
      src := src
      status := doneStatus s.status } := by
  change execEsign s = _
  rw [execEsign, if_neg (by simp [inScalarRange, h1, hn]), hd]
  rfl

/-- Settles O56: the loop ends with an accepted `k`, whose signature fits its registers. -/
theorem esignCompletes : Obligations.EsignCompletes := by
  intro s hwf hn hed1 hedn ⟨k0, hk1, hkn, hacc⟩
  obtain ⟨hn1, hfit⟩ := Curve.wf_order (Config.wf_curve hwf)
  cases hd : drawUntil 1 (s.cfg.curve.n - 1) (signWith s) s.src with
  | none => exact absurd (drawUntil_none _ _ _ _ hd k0 hk1 hkn) hacc
  | some result =>
    obtain ⟨⟨r, sg⟩, src⟩ := result
    obtain ⟨k, ⟨hklo, hkhi⟩, hok, hfirst⟩ := drawUntil_spec (by omega) hd
    obtain ⟨⟨x, y, hmul, hrx⟩, ⟨hr0, hrn⟩, ⟨hs0, hsn⟩, heq⟩ := signAttempt_spec hn hklo (by omega) hok
    have hr : (BitVec.ofNat 192 r).toNat = r := by rw [BitVec.toNat_ofNat, Nat.mod_eq_of_lt (hrn.trans hfit)]
    have hs : (BitVec.ofNat 192 sg).toNat = sg := by rw [BitVec.toNat_ofNat, Nat.mod_eq_of_lt (hsn.trans hfit)]
    refine ⟨_, k, x, y, exec_esign hed1 hedn hd, rfl, hklo, hkhi, hmul, ?_⟩
    dsimp only
    rw [hr, hs]
    refine ⟨hrx, hr0, by omega, hs0, by omega, heq, fun rejected k' rest hrand hrej h1 hk' hacc' => ?_⟩
    exact hfirst rejected k' rest
      ⟨hrand, fun b hb => and_assoc.2 (hrej b hb), ⟨h1, hk'⟩, hacc'⟩

end Sys2Proof.Machine

/-! ## Proofs: `KGEN` (spec/42_knapsack.md R140 to R142) -/

namespace Sys2Proof.Machine

/-! ### The element loop -/

/-- R15: a draw uses up one ready value, if there is one. -/
theorem draw_rand (lo hi : Nat) (src : Source) : (draw lo hi src).2.rand = src.rand.drop 1 := by
  cases hrand : src.rand <;> simp [draw, hrand]

/-- R15: a ready value of the range is the draw. -/
theorem draw_of_ready {lo hi v : Nat} {src : Source} (h : src.rand[0]? = some v) (hv : lo ≤ v ∧ v ≤ hi) :
    (draw lo hi src).1 = v := by
  obtain ⟨vs, hrand⟩ : ∃ vs, src.rand = v :: vs := List.head?_eq_some_iff.1 (List.head?_eq_getElem? ▸ h)
  rw [draw_ready hrand hv]

/-- R142: element `j` of the sequence, 0 past its end. -/
def Sequence.element (q : Sequence) (j : Nat) : Nat := q.elements.getD j 0

/-- R142: the element that the loop makes at index `i` with the sum `s` so far. -/
def firstElement (i s : Nat) (src : Source) : Nat := max (2 ^ i) (s + 1) + (draw 0 3 src).1

/-- R142: the loop after its first element. -/
def restElements (count i s : Nat) (src : Source) : Sequence :=
  genElements count (i + 1) (s + firstElement i s src) (draw 0 3 src).2

/-- R142: one turn of the element loop. -/
theorem genElements_succ (count i s : Nat) (src : Source) :
    genElements (count + 1) i s src =
      { restElements count i s src with elements := firstElement i s src :: (restElements count i s src).elements } := rfl

theorem genElements_length (count : Nat) :
    ∀ (i s : Nat) (src : Source), (genElements count i s src).elements.length = count := by
  induction count with
  | zero => exact fun _ _ _ => rfl
  | succ count ih => exact fun i s src => congrArg (· + 1) (ih ..)

/-- R142: each element of the loop uses up one ready value. -/
theorem genElements_rand (count : Nat) :
    ∀ (i s : Nat) (src : Source), (genElements count i s src).src.rand = src.rand.drop count := by
  induction count with
  | zero => exact fun _ _ _ => rfl
  | succ count ih =>
    intro i s src
    rw [genElements_succ]
    dsimp only
    rw [restElements, ih, draw_rand, List.drop_drop, Nat.add_comm]

/-- The elements before index `j + 1`: the first one, then those of the rest of the loop. -/
theorem sum_element_succ (count i s : Nat) (src : Source) (j : Nat) :
    ∑ k ∈ Finset.range (j + 1), (genElements (count + 1) i s src).element k =
      firstElement i s src + ∑ k ∈ Finset.range j, (restElements count i s src).element k := by
  rw [Finset.sum_range_succ', Nat.add_comm]
  rfl

/-- R142: the sum that the loop leaves. -/
theorem genElements_sum (count : Nat) : ∀ (i s : Nat) (src : Source),
    (genElements count i s src).sum = s + ∑ k ∈ Finset.range count, (genElements count i s src).element k := by
  induction count with
  | zero => exact fun _ _ _ => rfl
  | succ count ih =>
    intro i s src
    rw [sum_element_succ, ← Nat.add_assoc]
    exact ih ..

/-- R142: an element is its span's least value plus a draw of `[0, 3]`, which is the ready value of its index where that is
one of `[0, 3]`. -/
theorem genElements_element (count : Nat) : ∀ (i s : Nat) (src : Source) (j : Nat), j < count →
    ∃ delta ≤ 3, (genElements count i s src).element j =
        max (2 ^ (i + j)) (s + ∑ k ∈ Finset.range j, (genElements count i s src).element k + 1) + delta ∧
      ∀ v, src.rand[j]? = some v → v ≤ 3 → delta = v := by
  induction count with
  | zero => exact fun _ _ _ _ hj => absurd hj (Nat.not_lt_zero _)
  | succ count ih =>
    intro i s src j hj
    cases j with
    | zero =>
      exact ⟨_, (draw_mem 0 3 src (by omega)).2, rfl, fun v hv h3 => draw_of_ready hv ⟨Nat.zero_le v, h3⟩⟩
    | succ j =>
      obtain ⟨delta, hdelta, helem, hready⟩ := ih (i + 1) (s + firstElement i s src) (draw 0 3 src).2 j (by omega)
      refine ⟨delta, hdelta, ?_, fun v hv => hready v ?_⟩
      · rw [show i + (j + 1) = i + 1 + j by omega, sum_element_succ, ← Nat.add_assoc]
        exact helem
      · rw [draw_rand, List.getElem?_drop, Nat.add_comm, hv]

/-- R148: the sum stays small enough for the registers. -/
theorem genElements_sum_le (count : Nat) : ∀ (i s : Nat) (src : Source), s + 4 ≤ 2 ^ (i + 2) →
    (genElements count i s src).sum + 4 ≤ 2 ^ (i + count + 2) := by
  induction count with
  | zero => exact fun _ _ _ h => h
  | succ count ih =>
    intro i s src h
    have hdraw := (draw_mem 0 3 src (by omega)).2
    have hnext : s + firstElement i s src + 4 ≤ 2 ^ (i + 1 + 2) := by
      rw [firstElement]
      have := Nat.one_le_two_pow (n := i)
      rw [pow_add] at h ⊢
      rw [pow_succ]
      omega
    rw [show i + (count + 1) + 2 = i + 1 + count + 2 by omega]
    exact ih _ _ _ hnext

/-! ### The modulus and the multiplier -/

/-- R142: an accepted multiplier is the draw itself, coprime to the modulus. -/
theorem coprimeTo_eq_some {m v a : Nat} : coprimeTo m v = some a ↔ v = a ∧ Nat.gcd v m = 1 := by
  rw [coprimeTo, Option.ite_none_right_eq_some, Option.some_inj, and_comm]

theorem coprimeTo_eq_none {m v : Nat} : coprimeTo m v = none ↔ Nat.gcd v m ≠ 1 := by
  rw [coprimeTo, ite_eq_right_iff]
  simp

/-- R142: `M - 1` is acceptable, so the multiplier loop has a result. -/
theorem genMultiplier_eq {m : Nat} (hm : 3 ≤ m) (src : Source) :
    drawUntil 2 (m - 1) (coprimeTo m) src = some (genMultiplier m src) := by
  rw [genMultiplier]
  cases hd : drawUntil 2 (m - 1) (coprimeTo m) src with
  | some result => rfl
  | none =>
    have hgcd : Nat.gcd (m - 1) m = 1 := by
      have := Nat.coprime_self_add_right.2 (Nat.coprime_one_right (m - 1))
      rwa [Nat.sub_add_cancel (by omega)] at this
    exact absurd hgcd (coprimeTo_eq_none.1 (drawUntil_none _ _ _ _ hd (m - 1) (by omega) le_rfl))

/-- R142: the multiplier is a value of `[2, M-1]` coprime to `M`, the first one ready where one is. -/
theorem genMultiplier_spec {m : Nat} (hm : 3 ≤ m) (src : Source) :
    (2 ≤ (genMultiplier m src).1 ∧ (genMultiplier m src).1 ≤ m - 1) ∧ Nat.gcd (genMultiplier m src).1 m = 1 ∧
      ∀ rejected k rest, FirstAccepted 2 (m - 1) (coprimeTo m) src.rand rejected k rest →
        (genMultiplier m src).1 = k ∧ (genMultiplier m src).2.rand = rest := by
  obtain ⟨v, hv, hok, hfirst⟩ := drawUntil_spec (by omega) (genMultiplier_eq hm src)
  obtain ⟨rfl, hgcd⟩ := coprimeTo_eq_some.1 hok
  exact ⟨hv, hgcd, hfirst⟩

/-! ### The registers of the key pair -/

/-- R142: the sequence that `KGEN n` draws. -/
def kgenSequence (n : Nat) (src : Source) : Sequence := genElements n 0 0 src

/-- R142: the draw for the modulus, and the source after it. -/
def kgenExtra (n : Nat) (src : Source) : Nat × Source :=
  draw 0 ((kgenSequence n src).sum - 1) (kgenSequence n src).src

/-- R142: the modulus. -/
def kgenModulus (n : Nat) (src : Source) : Nat := (kgenSequence n src).sum + 1 + (kgenExtra n src).1

/-- R142: the multiplier, and the source after it. -/
def kgenMultiplier (n : Nat) (src : Source) : Nat × Source := genMultiplier (kgenModulus n src) (kgenExtra n src).2

/-- R142: the key pair's registers. -/
def kgenRegs (n : Nat) (s : State) : KnapRegs :=
  keyPairRegs s.knap n (kgenSequence n s.src).elements (kgenModulus n s.src) (kgenMultiplier n s.src).1

/-- R142: `KGEN` with a legal length. -/
theorem exec_kgen {s : State} {n : Nat} (h : legalLength n = true) :
    exec (.kgen n) s = .next { s with
      knap := kgenRegs n s
      src := (kgenMultiplier n s.src).2
      status := doneStatus s.status } := by
  change execKgen n s = _
  rw [execKgen, if_neg (by simp [h])]
  rfl

theorem legalLength_bounds {n : Nat} (h : legalLength n = true) : 8 ≤ n ∧ n ≤ 128 := by
  simp only [legalLength, Bool.and_eq_true, decide_eq_true_eq] at h
  exact h.1

theorem kgenSequence_sum (n : Nat) (src : Source) :
    (kgenSequence n src).sum = ∑ k ∈ Finset.range n, (kgenSequence n src).element k :=
  (genElements_sum n 0 0 src).trans (Nat.zero_add _)

theorem kgenSequence_element {n j : Nat} (hj : j < n) (src : Source) :
    ∃ delta ≤ 3, (kgenSequence n src).element j =
        max (2 ^ j) (∑ k ∈ Finset.range j, (kgenSequence n src).element k + 1) + delta ∧
      ∀ v, src.rand[j]? = some v → v ≤ 3 → delta = v := by
  simpa only [kgenSequence, Nat.zero_add] using genElements_element n 0 0 src j hj

theorem kgenSequence_element_of_ge {n j : Nat} (hj : n ≤ j) (src : Source) : (kgenSequence n src).element j = 0 := by
  rw [Sequence.element, List.getD_eq_default _ _ (by rwa [kgenSequence, genElements_length])]

theorem kgenSequence_element_le_sum (n j : Nat) (src : Source) :
    (kgenSequence n src).element j ≤ (kgenSequence n src).sum := by
  obtain hj | hj := Nat.lt_or_ge j n
  · rw [kgenSequence_sum]
    exact Finset.single_le_sum (fun _ _ => Nat.zero_le _) (Finset.mem_range.2 hj)
  · rw [kgenSequence_element_of_ge hj]
    exact Nat.zero_le _

/-- R142, R148: the sum of a legal sequence is above 1, and twice the sum still fits the registers. -/
theorem kgenSequence_sum_bounds {n : Nat} (h : legalLength n = true) (src : Source) :
    2 ≤ (kgenSequence n src).sum ∧ 2 * (kgenSequence n src).sum < 2 ^ 136 := by
  obtain ⟨h8, h128⟩ := legalLength_bounds h
  obtain ⟨delta, -, helem, -⟩ := kgenSequence_element (n := n) (j := 1) (by omega) src
  have hlow := kgenSequence_element_le_sum n 1 src
  have hhigh : (kgenSequence n src).sum + 4 ≤ 2 ^ (0 + n + 2) := genElements_sum_le n 0 0 src (by norm_num)
  have hpow : 2 ^ (0 + n + 2) ≤ 2 ^ 130 := Nat.pow_le_pow_right Nat.two_pos (by omega)
  omega

/-- R142: the modulus lies in `(S, 2S]`. -/
theorem kgenModulus_bounds {n : Nat} (h : legalLength n = true) (src : Source) :
    (kgenSequence n src).sum < kgenModulus n src ∧ kgenModulus n src ≤ 2 * (kgenSequence n src).sum := by
  obtain ⟨hsum, -⟩ := kgenSequence_sum_bounds h src
  have hextra : (kgenExtra n src).1 ≤ (kgenSequence n src).sum - 1 := (draw_mem 0 _ _ (Nat.zero_le _)).2
  rw [kgenModulus]
  omega

/-- R142, R148: the modulus is above 2 and fits its register. -/
theorem kgenModulus_fits {n : Nat} (h : legalLength n = true) (src : Source) :
    3 ≤ kgenModulus n src ∧ kgenModulus n src < 2 ^ 136 := by
  have := kgenSequence_sum_bounds h src
  have := kgenModulus_bounds h src
  omega

/-- R142: the multiplier of the key pair, with the ready values that the sequence and the modulus left. -/
theorem kgenMultiplier_spec {n : Nat} (h : legalLength n = true) (src : Source) :
    (2 ≤ (kgenMultiplier n src).1 ∧ (kgenMultiplier n src).1 ≤ kgenModulus n src - 1) ∧
      Nat.gcd (kgenMultiplier n src).1 (kgenModulus n src) = 1 ∧
      ∀ rejected k rest,
        FirstAccepted 2 (kgenModulus n src - 1) (coprimeTo (kgenModulus n src)) (src.rand.drop (n + 1)) rejected k rest →
        (kgenMultiplier n src).1 = k ∧ (kgenMultiplier n src).2.rand = rest := by
  have hrand : (kgenExtra n src).2.rand = src.rand.drop (n + 1) := by
    rw [kgenExtra, draw_rand, kgenSequence, genElements_rand, List.drop_drop]
  rw [← hrand]
  exact genMultiplier_spec (kgenModulus_fits h src).1 _

/-- An index past the end of an array answers 0. -/
theorem elem_of_ge {w k : Nat} (v : Vector (BitVec w) k) {i : Nat} (h : k ≤ i) : elem v i = 0 := by
  simp [elem, h]

/-- An array of the values of `f` below `n` holds `f` at every index, where `f` fits its elements and is 0 from `n` on. -/
theorem toNat_elem_ofFn {w k n : Nat} {f : Nat → Nat} (hn : n ≤ k) (hfit : ∀ i, f i < 2 ^ w) (hzero : ∀ i, n ≤ i → f i = 0)
    (i : Nat) :
    (elem (Vector.ofFn fun j : Fin k => if j.val < n then BitVec.ofNat w (f j.val) else 0) i).toNat = f i := by
  by_cases hk : i < k
  · rw [elem_ofFn _ _ hk]
    dsimp only
    split
    · rw [BitVec.toNat_ofNat, Nat.mod_eq_of_lt (hfit i)]
    · next hge => rw [hzero i (by omega)]; rfl
  · rw [elem_of_ge _ (by omega), hzero i (by omega)]
    rfl

section Registers

variable {n : Nat} (h : legalLength n = true) (s : State)

include h

theorem kgenRegs_klen : (kgenRegs n s).klen.toNat = n := by
  have := legalLength_bounds h
  rw [kgenRegs, keyPairRegs_klen, BitVec.toNat_ofNat]
  omega

theorem kgenRegs_km : (kgenRegs n s).km.toNat = kgenModulus n s.src := by
  rw [kgenRegs, keyPairRegs_km, BitVec.toNat_ofNat, Nat.mod_eq_of_lt (kgenModulus_fits h s.src).2]

theorem kgenRegs_ka : (kgenRegs n s).ka.toNat = (kgenMultiplier n s.src).1 := by
  have := kgenModulus_fits h s.src
  have := (kgenMultiplier_spec h s.src).1
  rw [kgenRegs, keyPairRegs_ka, BitVec.toNat_ofNat]
  omega

theorem privateElem_kgenRegs (i : Nat) : privateElem (kgenRegs n s) i = (kgenSequence n s.src).element i := by
  refine toNat_elem_ofFn (f := (kgenSequence n s.src).element) (legalLength_bounds h).2 (fun j => ?_)
    (fun j hj => kgenSequence_element_of_ge hj s.src) i
  have := kgenSequence_sum_bounds h s.src
  have := kgenSequence_element_le_sum n j s.src
  omega

theorem publicElem_kgenRegs (i : Nat) :
    publicElem (kgenRegs n s) i = (kgenMultiplier n s.src).1 * (kgenSequence n s.src).element i % kgenModulus n s.src := by
  refine toNat_elem_ofFn
    (f := fun j => (kgenMultiplier n s.src).1 * (kgenSequence n s.src).element j % kgenModulus n s.src)
    (legalLength_bounds h).2 (fun j => ?_) (fun j hj => ?_) i
  · obtain ⟨hpos, hfit⟩ := kgenModulus_fits h s.src
    exact (Nat.mod_lt _ (by omega)).trans hfit
  · rw [kgenSequence_element_of_ge hj, Nat.mul_zero, Nat.zero_mod]

/-- R140: the generated registers are a key pair. -/
theorem kgenRegs_isKeyPair : IsKeyPair (kgenRegs n s) := by
  obtain ⟨⟨h2, hlt⟩, hgcd, -⟩ := kgenMultiplier_spec h s.src
  have hmod := kgenModulus_bounds h s.src
  simp only [IsKeyPair, kgenRegs_klen h, kgenRegs_km h, kgenRegs_ka h, privateElem_kgenRegs h, publicElem_kgenRegs h]
  refine ⟨h, fun i hi => ?superincreasing, kgenSequence_sum n s.src ▸ hmod.1, h2, by omega, hgcd, fun _ _ => trivial⟩
  obtain ⟨delta, -, helem, -⟩ := kgenSequence_element hi s.src
  omega

end Registers

/-- Settles O41: the registers hold what the loops of `KGEN` drew, ready value by ready value. -/
theorem kgenMakesAKeyPair : Obligations.KgenMakesAKeyPair := by
  intro s n h
  obtain ⟨-, -, hfirst⟩ := kgenMultiplier_spec h s.src
  refine ⟨_, exec_kgen h, rfl, kgenRegs_klen h s, kgenRegs_isKeyPair h s, rfl, ?_⟩
  simp only [kgenRegs_km h, kgenRegs_ka h, privateElem_kgenRegs h, publicElem_kgenRegs h, ← kgenSequence_sum]
  refine ⟨(kgenModulus_bounds h s.src).2, ?span, ?above, ?delta, ?modulus, ?multiplier⟩
  case span =>
    intro i hi
    obtain ⟨delta, hdelta, helem, -⟩ := kgenSequence_element hi s.src
    omega
  case above =>
    intro i hi
    rw [kgenSequence_element_of_ge hi]
    exact ⟨rfl, Nat.zero_mod _⟩
  case delta =>
    intro i v hi hv h3
    obtain ⟨delta, -, helem, hready⟩ := kgenSequence_element hi s.src
    rw [helem, hready v hv h3]
  case modulus =>
    intro extra hready hle
    have hextra : (kgenExtra n s.src).1 = extra :=
      draw_of_ready (by rwa [kgenSequence, genElements_rand, List.getElem?_drop]) ⟨Nat.zero_le _, hle⟩
    rw [kgenModulus, hextra]
  case multiplier =>
    intro rejected a rest hrand hrej h2 hle hgcd
    refine hfirst rejected a rest ⟨hrand, fun b hb => ?_, ⟨h2, hle⟩, fun hnone => coprimeTo_eq_none.1 hnone hgcd⟩
    obtain ⟨hb2, hble, hbgcd⟩ := hrej b hb
    exact ⟨⟨hb2, hble⟩, coprimeTo_eq_none.2 hbgcd⟩

end Sys2Proof.Machine

/-! ## Proofs: the 16-bit primitives of the cipher (spec/40_cipher_schedule.md R100 to R103) -/

namespace Sys2Proof.Machine

/-! ### A word as a residue from 1 to 65536 -/

/-- R101: the residue that a word stands for. -/
theorem mulOperand_eq (a : Word16) : mulOperand a = if a = 0 then 65536 else a.toNat := by
  simp [mulOperand, BitVec.toNat_eq]

theorem mulOperand_bounds (a : Word16) : 1 ≤ mulOperand a ∧ mulOperand a ≤ 65536 := by
  unfold mulOperand
  split <;> omega

/-- R101: a residue is stored in the low 16 bits. -/
theorem ofNat_mulOperand (a : Word16) : BitVec.ofNat 16 (mulOperand a) = a := by
  apply BitVec.eq_of_toNat_eq
  rw [BitVec.toNat_ofNat, mulOperand]
  split <;> omega

/-- R101: a stored residue is read back, 65536 included. -/
theorem mulOperand_ofNat {n : Nat} (h1 : 1 ≤ n) (h2 : n ≤ 65536) : mulOperand (BitVec.ofNat 16 n) = n := by
  rw [mulOperand, BitVec.toNat_ofNat]
  split <;> omega

theorem mulOperand_injective : Function.Injective mulOperand :=
  Function.LeftInverse.injective ofNat_mulOperand

theorem prime_65537 : Nat.Prime 65537 := by norm_num

/-- R101: 65537 is prime, so no residue that a word stands for shares a factor with it. -/
theorem coprime_mulOperand (a : Word16) : Nat.Coprime (mulOperand a) 65537 := by
  obtain ⟨h1, h2⟩ := mulOperand_bounds a
  exact (Nat.coprime_of_lt_prime (by omega) (by omega) prime_65537).symm

/-! ### The words form a commutative group under `Mul16` -/

/-- R101: the residue of a product is never 0, so storing it loses nothing. -/
theorem mulOperand_mul16 (a b : Word16) : mulOperand (mul16 a b) = mulOperand a * mulOperand b % 65537 := by
  have hcop : Nat.Coprime (mulOperand a * mulOperand b) 65537 := (coprime_mulOperand a).mul_left (coprime_mulOperand b)
  have hpos : mulOperand a * mulOperand b % 65537 ≠ 0 := fun h0 =>
    absurd (Nat.Coprime.eq_one_of_dvd hcop.symm (Nat.dvd_of_mod_eq_zero h0)) (by decide)
  exact mulOperand_ofNat (by omega) (by omega)

theorem mul16_comm (a b : Word16) : mul16 a b = mul16 b a := by
  rw [mul16, mul16, Nat.mul_comm]

theorem mul16_assoc (a b c : Word16) : mul16 (mul16 a b) c = mul16 a (mul16 b c) :=
  mulOperand_injective (by simp only [mulOperand_mul16, Nat.mod_mul_mod, Nat.mul_mod_mod, Nat.mul_assoc])

@[simp] theorem one_mul16 (a : Word16) : mul16 1 a = a := by
  have := mulOperand_bounds a
  refine mulOperand_injective ?_
  rw [mulOperand_mul16, show mulOperand 1 = 1 from rfl, Nat.one_mul, Nat.mod_eq_of_lt (by omega)]

@[simp] theorem mul16_one (a : Word16) : mul16 a 1 = a := by
  rw [mul16_comm, one_mul16]

/-- R103: the residue of the inverse word is the inverse residue. -/
theorem mulInv16_spec (a : Word16) :
    1 ≤ modInv (mulOperand a) 65537 ∧ modInv (mulOperand a) 65537 ≤ 65536 ∧
      mulOperand a * modInv (mulOperand a) 65537 % 65537 = 1 := by
  obtain ⟨hpos, hlt, hinv⟩ := modInv_spec (mulOperand a) 65537 (by norm_num)
    (by rw [← Nat.gcd_rec, Nat.gcd_comm]; exact coprime_mulOperand a)
  exact ⟨hpos, by omega, hinv⟩

@[simp] theorem mul16_mulInv16 (a : Word16) : mul16 a (mulInv16 a) = 1 := by
  obtain ⟨hpos, hle, hinv⟩ := mulInv16_spec a
  rw [mul16, mulInv16, mulOperand_ofNat hpos hle, hinv]
  rfl

@[simp] theorem mulInv16_mul16 (a : Word16) : mul16 (mulInv16 a) a = 1 := by
  rw [mul16_comm, mul16_mulInv16]

/-- R103: what one word multiplies, its inverse undoes. -/
theorem mul16_mul16_cancel {a b : Word16} (h : mul16 b a = 1) (x : Word16) : mul16 (mul16 x a) b = x := by
  rw [mul16_assoc, mul16_comm a, h, mul16_one]

/-- R103: an inverse is unique. -/
theorem mulInv16_eq_of_mul16_eq_one {a b : Word16} (h : mul16 a b = 1) : mulInv16 a = b := by
  have hcancel := mul16_mul16_cancel (mulInv16_mul16 a) b
  rwa [mul16_comm b a, h, one_mul16] at hcancel

@[simp] theorem mulInv16_mulInv16 (a : Word16) : mulInv16 (mulInv16 a) = a :=
  mulInv16_eq_of_mul16_eq_one (mulInv16_mul16 a)

/-- R101: multiplication by a fixed word is undone by multiplication by its inverse. -/
theorem mul16_bijective (b : Word16) : Function.Bijective fun a => mul16 a b :=
  Function.bijective_iff_has_inverse.2 ⟨fun a => mul16 a (mulInv16 b),
    mul16_mul16_cancel (mulInv16_mul16 b), mul16_mul16_cancel (mul16_mulInv16 b)⟩

/-- R101: 0 stands for 65536, which is -1 modulo 65537. -/
theorem zero_mul16 {b : Word16} (h : b ≠ 0) : (mul16 0 b).toNat = (65537 - b.toNat) % 65536 := by
  have hb : b.toNat ≠ 0 := fun h0 => h (BitVec.eq_of_toNat_eq h0)
  have hneg : 65536 * b.toNat % 65537 = 65537 - b.toNat := by
    rw [show 65536 * b.toNat = 65537 - b.toNat + 65537 * (b.toNat - 1) by omega, Nat.add_mul_mod_self_left]
    exact Nat.mod_eq_of_lt (by omega)
  rw [mul16, show mulOperand 0 = 65536 from rfl, mulOperand, if_neg hb, BitVec.toNat_ofNat, hneg]

/-- Settles O32: the words under `Mul16` are the residues from 1 to 65536 under multiplication modulo the prime 65537. -/
theorem mulModulo65537 : Obligations.MulModulo65537 := by
  refine ⟨fun a b => ?value, mul16_comm, mul16_bijective, one_mul16, fun b hb => zero_mul16 hb, ?corners⟩
  case value => rw [mul16, BitVec.toNat_ofNat, mulOperand_eq, mulOperand_eq]
  case corners => decide

/-! ### The additive and the multiplicative inverse -/

theorem toNat_addInv16 (a : Word16) : (addInv16 a).toNat = (65536 - a.toNat) % 65536 := by
  rw [addInv16, BitVec.toNat_ofNat, Nat.mod_mod]

/-- R102: the additive inverse is the negative of a word. -/
theorem addInv16_eq_neg (a : Word16) : addInv16 a = -a :=
  BitVec.eq_of_toNat_eq (by rw [toNat_addInv16, BitVec.toNat_neg])

theorem addInv16_add (a : Word16) : addInv16 a + a = 0 := by
  rw [addInv16_eq_neg]
  exact BitVec.add_left_neg a

/-- R102: what one word adds, its negative undoes. -/
theorem add16_add16_cancel {a b : Word16} (h : b + a = 0) (x : Word16) : add16 (add16 x a) b = x := by
  rw [add16, add16, BitVec.add_assoc, BitVec.add_comm a, h]
  exact BitVec.add_zero x

theorem add16_addInv16 (a : Word16) : add16 a (addInv16 a) = 0 := by
  rw [add16, BitVec.add_comm, addInv16_add]

@[simp] theorem addInv16_addInv16 (a : Word16) : addInv16 (addInv16 a) = a := by
  rw [addInv16_eq_neg, addInv16_eq_neg, BitVec.neg_neg]

/-- R103: the inverse residue, with the word that stores it. -/
theorem mulInv16_existsUnique_residue (a : Word16) :
    ∃ x, (1 ≤ x ∧ x ≤ 65536 ∧ mulOperand a * x % 65537 = 1) ∧ (mulInv16 a).toNat = x % 65536 ∧
      ∀ y, 1 ≤ y → y ≤ 65536 → mulOperand a * y % 65537 = 1 → y = x :=
  ⟨modInv (mulOperand a) 65537, mulInv16_spec a, BitVec.toNat_ofNat _ _, fun y _ hle hinv =>
    modInv_unique _ _ y (by norm_num) (by omega) hinv⟩

/-- Settles O33: the listed inverses are those whose products are 1. -/
theorem subkeyInverses : Obligations.SubkeyInverses := by
  refine ⟨fun a => ⟨toNat_addInv16 a, add16_addInv16 a⟩, fun a => ⟨mul16_mulInv16 a, mulInv16_mulInv16 a⟩,
    fun x a => mul16_mul16_cancel (mulInv16_mul16 a) x, fun a => ?residue, by decide, by decide, by decide,
    ?_, ?_, ?_, ?_, ?_, ?_⟩
  case residue =>
    rw [← mulOperand_eq]
    exact mulInv16_existsUnique_residue a
  all_goals exact mulInv16_eq_of_mul16_eq_one (by decide)

end Sys2Proof.Machine

/-! ## Proofs: the key schedule and its inverse (spec/40_cipher_schedule.md R104 to R108) -/

namespace Sys2Proof.Machine

/-! ### The key schedule -/

/-- R104: the bits of a word of the key, counted from the most significant end. -/
theorem getMsbD_wordOf (k : BitVec 128) {j b : Nat} (hj : j < 8) (hb : b < 16) :
    (wordOf k j).getMsbD b = k.getMsbD (16 * j + b) := by
  rw [wordOf, BitVec.getMsbD_extractLsb', show 128 - (112 - 16 * j + 16 - b) = 16 * j + b by omega]
  simp [hb, show 112 - 16 * j + 16 - b ≤ 128 by omega]

/-- R105: `KeyExpand` gives the key's schedule. -/
theorem keyExpand_isScheduleOf (k : BitVec 128) : IsScheduleOf (keyExpand k) k := by
  intro i b hi hb
  rw [subkey, keyExpand, elem_ofFn _ _ hi, getMsbD_wordOf _ (Nat.mod_lt _ (by decide)) hb, rol128,
    BitVec.getMsbD_rotateLeft, decide_eq_true (by omega), Bool.true_and, Nat.mod_add_mod, Nat.add_assoc]

/-- R105: the bit of the key at which subkey `i` starts, counted from the most significant end. -/
def subkeyStart (i : Nat) : Nat := (25 * (i / 8) + 16 * (i % 8)) % 128

/-- R106: the two subkeys of the recurrence start 9 bits before the new one and 7 bits after it, around the key. -/
theorem subkeyStart_recurrence : ∀ i ≤ 51, 8 ≤ i →
    (subkeyStart (if (i + 1) % 8 ≠ 0 then i - 7 else i - 15) + 9) % 128 = subkeyStart i ∧
      (subkeyStart i + 7) % 128 = subkeyStart (if (i + 2) % 8 < 2 then i - 14 else i - 6) := by
  decide

section Schedule

variable {z : Vector Word16 52} {k : BitVec 128} (h : IsScheduleOf z k)

include h

theorem IsScheduleOf.getMsbD_subkey {i b : Nat} (hi : i < 52) (hb : b < 16) :
    (subkey z i).getMsbD b = k.getMsbD ((subkeyStart i + b) % 128) := by
  rw [h i b hi hb, subkeyStart, Nat.mod_add_mod]

/-- R104: the first eight subkeys are the words of the key. -/
theorem IsScheduleOf.subkey_eq_wordOf {i : Nat} (hi : i < 8) : subkey z i = wordOf k i := by
  refine BitVec.eq_of_getMsbD_eq fun b hb => ?_
  rw [h i b (by omega) hb, getMsbD_wordOf k hi hb, Nat.div_eq_of_lt hi, Nat.mod_eq_of_lt hi]
  congr 1
  omega

/-- R106: a subkey that starts 9 bits before a third, and one that starts 7 bits after it, make the third up. -/
theorem IsScheduleOf.subkey_eq_or {i l r : Nat} (hi : i < 52) (hl : l < 52) (hr : r < 52)
    (hleft : (subkeyStart l + 9) % 128 = subkeyStart i) (hright : (subkeyStart i + 7) % 128 = subkeyStart r) :
    subkey z i = (subkey z l <<< 9) ||| (subkey z r >>> 7) := by
  refine BitVec.eq_of_getMsbD_eq fun b hb => ?_
  rw [BitVec.getMsbD_or, BitVec.getMsbD_shiftLeft, BitVec.getMsbD_ushiftRight, h.getMsbD_subkey hi hb]
  by_cases hlow : b < 7
  · rw [h.getMsbD_subkey hl (by omega), show (subkeyStart l + (b + 9)) % 128 = (subkeyStart i + b) % 128 by omega]
    simp [hlow]
  · rw [BitVec.getMsbD_of_ge _ (b + 9) (by omega), h.getMsbD_subkey hr (by omega),
      show (subkeyStart r + (b - 7)) % 128 = (subkeyStart i + b) % 128 by omega]
    simp [hlow, hb]

end Schedule

/-- Settles O34: a schedule's subkeys are windows of the key, so a window is made up from the two that overlap it. -/
theorem scheduleRecurrence : Obligations.ScheduleRecurrence := by
  intro k
  have h := keyExpand_isScheduleOf k
  refine ⟨fun i hi => h.subkey_eq_wordOf hi, fun i h8 h51 => ?_⟩
  obtain ⟨hleft, hright⟩ := subkeyStart_recurrence i h51 h8
  exact h.subkey_eq_or (by omega) (by split <;> omega) (by split <;> omega) hleft hright

/-! ### The inverse schedule -/

section Inverse

variable (z : Vector Word16 52) {r q : Nat}

theorem subkey_keyInvert (hi : 6 * r + q < 52) (hq : q < 6) : subkey (keyInvert z) (6 * r + q) = invertedSubkey z r q := by
  rw [subkey, keyInvert, elem_ofFn _ _ hi]
  dsimp only
  congr 1 <;> omega

/-- R107: the multipliers of a stage. -/
theorem subkey_keyInvert_multiplier (hr : r ≤ 8) (hq : q = 0 ∨ q = 3) :
    subkey (keyInvert z) (6 * r + q) = mulInv16 (subkey z (6 * (8 - r) + q)) := by
  rw [subkey_keyInvert z (by omega) (by omega)]
  obtain rfl | rfl := hq <;> rfl

/-- R107: the addends of a stage, swapped in the inner stages. -/
theorem subkey_keyInvert_addend (hr : r ≤ 8) (hq : q = 1 ∨ q = 2) :
    subkey (keyInvert z) (6 * r + q) = addInv16 (subkey z (6 * (8 - r) + if r = 0 ∨ r = 8 then q else 3 - q)) := by
  rw [subkey_keyInvert z (by omega) (by omega)]
  obtain rfl | rfl := hq <;> by_cases hr : r = 0 ∨ r = 8 <;> simp [invertedSubkey, subkey, hr]

/-- R107: the middle subkeys of a round are copied. -/
theorem subkey_keyInvert_middle (hr : r ≤ 7) (hq : q = 4 ∨ q = 5) :
    subkey (keyInvert z) (6 * r + q) = subkey z (6 * (7 - r) + q) := by
  rw [subkey_keyInvert z (by omega) (by omega)]
  obtain rfl | rfl := hq <;> rfl

/-- R108: the index map of R107 is its own inverse, and so are `AddInv16` and `MulInv16`. -/
theorem subkey_keyInvert_keyInvert (hi : 6 * r + q < 52) (hq : q < 6) :
    subkey (keyInvert (keyInvert z)) (6 * r + q) = subkey z (6 * r + q) := by
  obtain hmul | hadd | hmid : (q = 0 ∨ q = 3) ∨ (q = 1 ∨ q = 2) ∨ (q = 4 ∨ q = 5) := by omega
  · rw [subkey_keyInvert_multiplier _ (by omega) hmul, subkey_keyInvert_multiplier _ (by omega) hmul, mulInv16_mulInv16,
      show 8 - (8 - r) = r by omega]
  · rw [subkey_keyInvert_addend _ (by omega) hadd, subkey_keyInvert_addend _ (by omega) (by split <;> omega),
      addInv16_addInv16, show 8 - (8 - r) = r by omega]
    congr 2
    split <;> split <;> omega
  · rw [subkey_keyInvert_middle _ (by omega) hmid, subkey_keyInvert_middle _ (by omega) hmid,
      show 7 - (7 - r) = r by omega]

end Inverse

/-- R108. -/
theorem keyInvert_keyInvert (z : Vector Word16 52) : keyInvert (keyInvert z) = z := by
  refine Vector.ext fun i hi => ?_
  rw [← elem_eq_getElem _ hi, ← elem_eq_getElem _ hi, ← Nat.div_add_mod i 6]
  exact subkey_keyInvert_keyInvert z (by omega) (Nat.mod_lt _ (by decide))

/-- Settles O35: subkey by subkey, whatever the schedule holds. -/
theorem keyInvertIsAnInvolution : Obligations.KeyInvertIsAnInvolution := keyInvert_keyInvert

/-- R107: `KeyInvert` gives the inverse schedule. -/
theorem keyInvert_isInverseSchedule (z : Vector Word16 52) : IsInverseSchedule z (keyInvert z) := by
  refine ⟨fun r hr => ⟨?_, ?_⟩, fun r hr => ⟨?_, ?_⟩, fun r h1 h7 => ⟨?_, ?_⟩, fun r hr => ⟨?_, ?_⟩⟩
  · have hfirst := subkey_keyInvert_multiplier z hr (.inl rfl)
    simp only [Nat.add_zero] at hfirst
    rw [hfirst, mulInv16_mul16]
  · rw [subkey_keyInvert_multiplier z hr (by decide), mulInv16_mul16]
  · rw [subkey_keyInvert_addend z (by omega) (by decide), if_pos hr, addInv16_add]
  · rw [subkey_keyInvert_addend z (by omega) (by decide), if_pos hr, addInv16_add]
  · rw [subkey_keyInvert_addend z (by omega) (by decide), if_neg (by omega), addInv16_add]
  · rw [subkey_keyInvert_addend z (by omega) (by decide), if_neg (by omega), addInv16_add]
  · exact subkey_keyInvert_middle z hr (by decide)
  · exact subkey_keyInvert_middle z hr (by decide)

end Sys2Proof.Machine

/-! ## Proofs: the cipher under a schedule and its inverse (spec/41_cipher_block.md R121 to R123) -/

namespace Sys2Proof.Machine

/-! ### The round in three parts -/

/-- R121, R122: the middle words exchanged. -/
def Block.swap (b : Block) : Block := { b with x2 := b.x3, x3 := b.x2 }

/-- R121, R122: the four words under the first four subkeys of a stage. -/
def keyStage (sk : Vector Word16 52) (base : Nat) (b : Block) : Block where
  x1 := mul16 b.x1 (subkey sk base)
  x2 := add16 b.x2 (subkey sk (base + 1))
  x3 := add16 b.x3 (subkey sk (base + 2))
  x4 := mul16 b.x4 (subkey sk (base + 3))

/-- R121: the middle network, before the swap: functions of `p` and `q` alone are XORed into the pairs whose XOR they are. -/
def crossMix (k5 k6 : Word16) (b : Block) : Block :=
  let p := b.x1 ^^^ b.x3
  let q := b.x2 ^^^ b.x4
  let t0 := mul16 p k5
  let t2 := mul16 (add16 q t0) k6
  let t3 := add16 t0 t2
  { x1 := b.x1 ^^^ t2, x2 := b.x2 ^^^ t3, x3 := b.x3 ^^^ t2, x4 := b.x4 ^^^ t3 }

theorem cipherRound_eq (b : Block) (sk : Vector Word16 52) (base : Nat) :
    cipherRound b sk base =
      (crossMix (subkey sk (base + 4)) (subkey sk (base + 5)) (keyStage sk base b)).swap := rfl

theorem outputTransform_eq (b : Block) (sk : Vector Word16 52) : outputTransform b sk = keyStage sk 48 b.swap := rfl

@[simp] theorem Block.swap_swap (b : Block) : b.swap.swap = b := rfl

theorem xor_xor_xor_cancel_right (x y t : Word16) : (x ^^^ t) ^^^ (y ^^^ t) = x ^^^ y := by
  rw [BitVec.xor_comm y t, ← BitVec.xor_assoc, BitVec.xor_assoc x t t, BitVec.xor_self, BitVec.xor_zero]

/-- R124: the middle network undoes itself, since it keeps `p` and `q`. -/
@[simp] theorem crossMix_crossMix (k5 k6 : Word16) (b : Block) : crossMix k5 k6 (crossMix k5 k6 b) = b := by
  simp only [crossMix, xor_xor_xor_cancel_right]
  simp only [BitVec.xor_assoc, BitVec.xor_self, BitVec.xor_zero]

/-! ### Decryption, stage by stage -/

section Inverse

variable {z d : Vector Word16 52} (h : IsInverseSchedule z d)

include h

/-- R107: an outer stage of the inverse schedule undoes its counterpart. -/
theorem IsInverseSchedule.keyStage_outer {r : Nat} (hr : r = 0 ∨ r = 8) (b : Block) :
    keyStage d (6 * r) (keyStage z (6 * (8 - r)) b) = b := by
  obtain ⟨hmul, houter, -, -⟩ := h
  obtain ⟨hmul0, hmul3⟩ := hmul r (by omega)
  obtain ⟨hadd1, hadd2⟩ := houter r hr
  cases b
  simp only [keyStage, mul16_mul16_cancel hmul0, mul16_mul16_cancel hmul3, add16_add16_cancel hadd1,
    add16_add16_cancel hadd2]

/-- R107: an inner stage of the inverse schedule undoes its counterpart with the middle words exchanged. -/
theorem IsInverseSchedule.keyStage_inner {r : Nat} (h1 : 1 ≤ r) (h7 : r ≤ 7) (b : Block) :
    keyStage d (6 * r) (keyStage z (6 * (8 - r)) b).swap = b.swap := by
  obtain ⟨hmul, -, hinner, -⟩ := h
  obtain ⟨hmul0, hmul3⟩ := hmul r (by omega)
  obtain ⟨hadd1, hadd2⟩ := hinner r h1 h7
  simp only [keyStage, Block.swap, mul16_mul16_cancel hmul0, mul16_mul16_cancel hmul3, add16_add16_cancel hadd1,
    add16_add16_cancel hadd2]

/-- R107: where the key stage of a decryption round has undone that of the encryption, the round's middle network undoes the
encryption's: both have the same middle subkeys. -/
theorem IsInverseSchedule.cipherRounds_succ_of_keyStage {b c : Block} {r : Nat} (hr : r ≤ 7)
    (hstage : keyStage d (6 * r) (cipherRounds d c r) = (cipherRounds z b (7 - r + 1)).swap) :
    cipherRounds d c (r + 1) = (keyStage z (6 * (7 - r)) (cipherRounds z b (7 - r))).swap := by
  obtain ⟨-, -, -, hmiddle⟩ := h
  obtain ⟨h4, h5⟩ := hmiddle r hr
  rw [cipherRounds, cipherRound_eq, hstage, cipherRounds, cipherRound_eq, Block.swap_swap, h4, h5, crossMix_crossMix]

/-- R111: decryption passes through the states of the encryption backwards, each after its key stage and with the middle
words exchanged. -/
theorem IsInverseSchedule.cipherRounds_cipherBlock (b : Block) (r : Nat) (hr : r ≤ 7) :
    cipherRounds d (cipherBlock z b) (r + 1) = (keyStage z (6 * (7 - r)) (cipherRounds z b (7 - r))).swap := by
  induction r with
  | zero => exact h.cipherRounds_succ_of_keyStage hr (h.keyStage_outer (.inl rfl) (cipherRounds z b 8).swap)
  | succ r ih =>
    refine h.cipherRounds_succ_of_keyStage hr ?_
    rw [ih (by omega), show 7 - r = 8 - (r + 1) by omega, h.keyStage_inner (by omega) hr,
      show 8 - (r + 1) = 7 - (r + 1) + 1 by omega]

/-- R111: the cipher under the inverse schedule undoes the cipher. -/
theorem IsInverseSchedule.cipherBlock_cipherBlock (b : Block) : cipherBlock d (cipherBlock z b) = b := by
  have hrounds := h.cipherRounds_cipherBlock b 7 le_rfl
  rw [cipherBlock, outputTransform_eq, hrounds]
  exact h.keyStage_outer (.inr rfl) b

end Inverse

end Sys2Proof.Machine

/-! ## Proofs: the cipher commands (spec/40_cipher_schedule.md R109 to R111, spec/60_exceptions.md R223) -/

namespace Sys2Proof.Machine

/-! ### Completion and errors -/

/-- R220: error completion is the failed state with the code of R221. -/
theorem raise_eq_failState (e : CmdError) (s : State) : raise e s = .next (failState s (errorCode e)) := rfl

/-- R109: `CSCHED` with a length of 16 and a written key. -/
theorem exec_csched {s : State} (hkeyv : s.status.keyv = true) (e : Bool) :
    exec (.csched e 16) s = .next { s with
      sk := scheduleFor e s.key
      status := { doneStatus s.status with skv := true, skdir := e } } := by
  change execCsched e 16 s = _
  rw [execCsched, if_neg (by decide), if_neg (by simp [hkeyv])]
  rfl

/-- R110: `CSINV` with a schedule. -/
theorem exec_csinv {s : State} (hskv : s.status.skv = true) :
    exec .csinv s = .next { s with
      sk := keyInvert s.sk
      status := { doneStatus s.status with skdir := !s.status.skdir } } := by
  change execCsinv s = _
  rw [execCsinv, if_neg (by simp [hskv])]
  rfl

/-- Settles O22: each premise decides the checks up to the one that fails. -/
theorem cipherErrorsInOrder : Obligations.CipherErrorsInOrder := by
  intro s e imm
  refine ⟨fun himm => ?_, fun himm hkeyv => ?_, fun hskv => ?_, fun hoff => ?_, fun hoff hskv => ?_⟩
  · exact (if_pos himm).trans (raise_eq_failState .invalidKeyLength s)
  · exact (if_neg (not_not.2 himm)).trans ((if_pos hkeyv).trans (raise_eq_failState .noKey s))
  · exact (if_pos hskv).trans (raise_eq_failState .noSchedule s)
  · exact (if_pos hoff).trans (raise_eq_failState .bufferRange s)
  · exact (if_neg (by omega)).trans ((if_pos hskv).trans (raise_eq_failState .noSchedule s))

/-- Settles O36: `CSCHED.D` loads what `CSINV` makes of the schedule that `CSCHED.E` loads. -/
theorem cschedCompletes : Obligations.CschedCompletes := by
  intro s e hkeyv
  refine ⟨_, exec_csched hkeyv e, rfl, fun he => ?_, fun he => ?_⟩
  · subst he
    exact keyExpand_isScheduleOf s.key
  · subst he
    exact ⟨_, _, exec_csched hkeyv true, exec_csinv rfl, rfl, keyExpand_isScheduleOf s.key,
      keyInvert_isInverseSchedule (keyExpand s.key)⟩

/-- Settles O37: by the involution of the schedule's inversion and of the direction flag. -/
theorem csinvCompletes : Obligations.CsinvCompletes := by
  intro s hskv
  exact ⟨_, exec_csinv hskv, rfl, keyInvert_isInverseSchedule s.sk, _, exec_csinv hskv, keyInvert_keyInvert s.sk,
    Bool.not_not s.status.skdir⟩

/-! ### A block through both directions -/

/-- R109: the two directions' schedules are each other's inverse. -/
theorem isInverseSchedule_scheduleFor (e : Bool) (k : BitVec 128) :
    IsInverseSchedule (scheduleFor e k) (scheduleFor (!e) k) := by
  cases e with
  | true => exact keyInvert_isInverseSchedule (keyExpand k)
  | false =>
    have h := keyInvert_isInverseSchedule (keyInvert (keyExpand k))
    rwa [keyInvert_keyInvert] at h

/-- R120: a word of a block determines its two bytes. -/
theorem get_eq_of_word_eq {m m' : Memory} {addr a : Nat}
    (h : BitVec.ofNat 16 (memRead m addr 2) = BitVec.ofNat 16 (memRead m' addr 2)) (ha : a = addr ∨ a = addr + 1) :
    Memory.get m a = Memory.get m' a := by
  have hnat := congrArg BitVec.toNat h
  rw [BitVec.toNat_ofNat, BitVec.toNat_ofNat, memRead_two, memRead_two] at hnat
  apply BitVec.eq_of_toNat_eq
  obtain rfl | rfl := ha <;> omega

/-- R120: a block determines its eight bytes. -/
theorem get_eq_of_loadBlock_eq {m m' : Memory} {off a : Nat} (h : loadBlock m off = loadBlock m' off) (h1 : off ≤ a)
    (h2 : a < off + 8) : Memory.get m a = Memory.get m' a := by
  rw [loadBlock, loadBlock, Block.mk.injEq] at h
  obtain ⟨hx1, hx2, hx3, hx4⟩ := h
  obtain ha | ha | ha | ha : (a = off ∨ a = off + 1) ∨ (a = off + 2 ∨ a = off + 2 + 1) ∨
    (a = off + 4 ∨ a = off + 4 + 1) ∨ (a = off + 6 ∨ a = off + 6 + 1) := by omega
  · exact get_eq_of_word_eq hx1 ha
  · exact get_eq_of_word_eq hx2 ha
  · exact get_eq_of_word_eq hx3 ha
  · exact get_eq_of_word_eq hx4 ha

/-- R123: to store a block and then the one that was there restores every byte. -/
theorem get_storeBlock_storeBlock {m : Memory} (h : Memory.wf m = true) (off : Nat) (b : Block) (a : Nat) :
    Memory.get (storeBlock (storeBlock m off b) off (loadBlock m off)) a = Memory.get m a := by
  by_cases ha : a < off ∨ off + 8 ≤ a
  · rw [storeBlock_get_other _ _ ha, storeBlock_get_other _ _ ha]
  · exact get_eq_of_loadBlock_eq (loadBlock_storeBlock (storeBlock_wf m off b h) off _) (by omega) (by omega)

/-- R109, R123: `CSCHED` with a written key and then `CBLOCK` at a legal offset put the block through the direction's
schedule, and leave the key to the next `CSCHED`. -/
theorem exec_csched_cblock {s : State} (hkeyv : s.status.keyv = true) (e : Bool) {off : Nat}
    (hoff : off + 8 ≤ s.cfg.dbufBytes) :
    ∃ t u, exec (.csched e 16) s = .next t ∧ exec (.cblock off) t = .next u ∧
      t.status.err = false ∧ u.status.err = false ∧ u.status.keyv = true ∧ u.cfg = s.cfg ∧ u.key = s.key ∧
      u.dbuf = storeBlock s.dbuf off (cipherBlock (scheduleFor e s.key) (loadBlock s.dbuf off)) :=
  ⟨_, _, exec_csched hkeyv e, exec_cblock hoff rfl, rfl, rfl, hkeyv, rfl, rfl, rfl⟩

/-- Settles O40: the second `CBLOCK` computes the block that the first one found, and stores it back. -/
theorem encryptThenDecryptRestores : Obligations.EncryptThenDecryptRestores := by
  intro s e off hkeyv hoff hwf
  obtain ⟨t1, t2, hexec1, hexec2, herr1, herr2, hkeyv2, hcfg2, hkey2, hdbuf2⟩ := exec_csched_cblock hkeyv e hoff
  obtain ⟨t3, t4, hexec3, hexec4, herr3, herr4, -, -, -, hdbuf4⟩ :=
    exec_csched_cblock hkeyv2 (!e) (hcfg2 ▸ hoff)
  refine ⟨t1, t2, t3, t4, hexec1, hexec2, hexec3, hexec4, herr1, herr2, herr3, herr4, fun a => ?_⟩
  rw [hdbuf4, hkey2, hdbuf2, loadBlock_storeBlock hwf, (isInverseSchedule_scheduleFor e s.key).cipherBlock_cipherBlock]
  exact get_storeBlock_storeBlock hwf off _ a

end Sys2Proof.Machine

/-! ## Proofs: the block transform is a bijection (spec/41_cipher_block.md R124) -/

namespace Sys2Proof.Machine

/-- R107, R111: every schedule is itself the inverse of its inverse schedule. -/
theorem keyInvert_isInverseSchedule_symm (z : Vector Word16 52) : IsInverseSchedule (keyInvert z) z := by
  have h := keyInvert_isInverseSchedule (keyInvert z)
  rwa [keyInvert_keyInvert] at h

/-- R124: the cipher under the inverted schedule is a two-sided inverse, whether or not the schedule comes from a key. -/
theorem cipherBlock_bijective (sk : Vector Word16 52) : Function.Bijective (cipherBlock sk) :=
  Function.bijective_iff_has_inverse.2 ⟨cipherBlock (keyInvert sk),
    (keyInvert_isInverseSchedule sk).cipherBlock_cipherBlock,
    (keyInvert_isInverseSchedule_symm sk).cipherBlock_cipherBlock⟩

/-- Settles O39: the inverse of the transform is the transform under the inverted schedule, and `CBLOCK` stores the block
where it is loaded. -/
theorem blockTransformIsBijective : Obligations.BlockTransformIsBijective :=
  ⟨cipherBlock_bijective, fun s off hoff hskv hwf =>
    ⟨_, exec_cblock hoff hskv, loadBlock_storeBlock hwf off (cipherBlock s.sk (loadBlock s.dbuf off))⟩⟩

end Sys2Proof.Machine

/-! ## Proofs: the knapsack commands after `KGEN` (spec/42_knapsack.md R140 to R148, spec/60_exceptions.md R223) -/

namespace Sys2Proof.Machine

/-! ### The operand checks (R223) -/

/-- R223: a check that fails ends the command with its error. -/
theorem check_fails {b : Bool} (h : ¬ b = true) (e : CmdError) (s : State) (r : Result) :
    (if b = false then raise e s else r) = .next (failState s (errorCode e)) :=
  (if_pos (Bool.eq_false_of_not_eq_true h)).trans (raise_eq_failState e s)

/-- R223: a check that passes leaves the rest of the command. -/
theorem check_passes {b : Bool} (h : b = true) (e : CmdError) (s : State) (r : Result) :
    (if b = false then raise e s else r) = r :=
  if_neg (by simp [h])

theorem lengthMatches_iff (imm : Nat) (r : KnapRegs) : lengthMatches imm r = true ↔ 8 * imm = r.klen.toNat :=
  decide_eq_true_iff

theorem multiplierInRange_iff (r : KnapRegs) :
    multiplierInRange r = true ↔ 2 ≤ r.ka.toNat ∧ r.ka.toNat < r.km.toNat := by
  simp [multiplierInRange]

theorem multiplierInvertible_iff (r : KnapRegs) :
    multiplierInvertible r = true ↔ Nat.gcd r.ka.toNat r.km.toNat = 1 :=
  decide_eq_true_iff

/-- R142: the legal lengths, listed. -/
theorem legalLength_iff_mem (n : Nat) :
    legalLength n = true ↔ n ∈ [8, 16, 24, 32, 40, 48, 56, 64, 72, 80, 88, 96, 104, 112, 120, 128] := by
  simp only [legalLength, Bool.and_eq_true, decide_eq_true_eq, List.mem_cons, List.not_mem_nil, or_false]
  rw [Config.knMax]
  omega

/-- Settles O23: each premise decides the checks up to the one that fails. -/
theorem knapsackErrorsInOrder : Obligations.KnapsackErrorsInOrder := by
  intro s imm legal inRange hlegal hrange
  replace hlegal := hlegal.trans (legalLength_iff_mem _).symm
  replace hrange := hrange.trans (multiplierInRange_iff s.knap).symm
  refine ⟨fun himm => ?_, fun h => ?_, fun hr => ?_, fun hr hg => ?_, fun hm => ?_, fun hm hl => ?_,
    fun hm hl hr => ?_, fun hm hl hr hg => ?_⟩
  · exact check_fails (mt (legalLength_iff_mem imm).1 himm) .illegalOperand s _
  · by_cases hl : legal
    · exact (check_passes (hlegal.1 hl) ..).trans
        (check_fails (fun hr => h ⟨hl, hrange.2 hr⟩) .illegalOperand s _)
    · exact check_fails (mt hlegal.2 hl) .illegalOperand s _
  · exact check_fails (mt hrange.2 hr) .illegalOperand s _
  · exact (check_passes (hrange.1 hr) ..).trans
      (check_fails (mt (multiplierInvertible_iff s.knap).1 hg) .noInverse s _)
  · have hfail := check_fails (mt (lengthMatches_iff imm s.knap).1 hm) .knapsackLengthMismatch s
    exact ⟨hfail _, hfail _⟩
  · have hpass := check_passes ((lengthMatches_iff imm s.knap).2 hm) .knapsackLengthMismatch s
    have hfail := check_fails (mt hlegal.2 hl) .illegalOperand s
    exact ⟨(hpass _).trans (hfail _), (hpass _).trans (hfail _)⟩
  · exact (check_passes ((lengthMatches_iff imm s.knap).2 hm) ..).trans <| (check_passes (hlegal.1 hl) ..).trans <|
      check_fails (mt hrange.2 hr) .illegalOperand s _
  · exact (check_passes ((lengthMatches_iff imm s.knap).2 hm) ..).trans <| (check_passes (hlegal.1 hl) ..).trans <|
      (check_passes (hrange.1 hr) ..).trans <|
      check_fails (mt (multiplierInvertible_iff s.knap).1 hg) .noInverse s _

/-! ### `KPUB` (R143) -/

/-- R143: `KPUB` with a legal length and a multiplier in range. -/
theorem exec_kpub {s : State} (hl : legalLength s.knap.klen.toNat = true) (h2 : 2 ≤ s.knap.ka.toNat)
    (hlt : s.knap.ka.toNat < s.knap.km.toNat) :
    exec .kpub s = .next { s with
      knap := { s.knap with kb := publicSequence s.knap }
      status := doneStatus s.status } :=
  (check_passes hl ..).trans (check_passes ((multiplierInRange_iff s.knap).2 ⟨h2, hlt⟩) ..)

theorem toNat_elem_publicSequence_of_lt {r : KnapRegs} (hm : 0 < r.km.toNat) {i : Nat} (hi : i < r.klen.toNat)
    (h128 : r.klen.toNat ≤ 128) :
    (elem (publicSequence r) i).toNat = r.ka.toNat * privateElem r i % r.km.toNat := by
  rw [publicSequence, elem_ofFn _ _ (by omega), if_pos hi, BitVec.toNat_ofNat,
    Nat.mod_eq_of_lt ((Nat.mod_lt _ hm).trans r.km.isLt)]

theorem elem_publicSequence_of_ge {r : KnapRegs} {i : Nat} (hi : r.klen.toNat ≤ i) :
    elem (publicSequence r) i = elem r.kb i := by
  obtain h | h := Nat.lt_or_ge i 128
  · rw [publicSequence, elem_ofFn _ _ h, if_neg (by simpa using hi)]
  · rw [elem_of_ge _ h, elem_of_ge _ h]

/-- Settles O42: a product below the modulus fits its element. -/
theorem kpubCompletes : Obligations.KpubCompletes := by
  intro s hl h2 hlt
  exact ⟨_, exec_kpub hl h2 hlt, rfl,
    fun i hi => toNat_elem_publicSequence_of_lt (by omega) hi (legalLength_bounds hl).2,
    fun i hi => congrArg BitVec.toNat (elem_publicSequence_of_ge hi)⟩

/-! ### `KENC` (R145, R148) -/

/-- R145: the subset sum, as a sum over the selected indices. -/
theorem subsetSum_eq_sum (key : BitVec 128) (b : Nat → Nat) (n : Nat) :
    subsetSum key b n = ∑ j ∈ Finset.range n, if keyBit key j then b j else 0 := by
  induction n with
  | zero => rfl
  | succ n ih => rw [subsetSum, ih, Finset.sum_range_succ]

theorem subsetSum_le_sum (key : BitVec 128) (b : Nat → Nat) (n : Nat) :
    subsetSum key b n ≤ ∑ j ∈ Finset.range n, b j := by
  rw [subsetSum_eq_sum]
  refine Finset.sum_le_sum fun j _ => ?_
  split <;> omega

/-- R148: the total of the public elements fits its register. -/
theorem toNat_knapsackTotal (r : KnapRegs) :
    (knapsackTotal r).toNat = subsetSum r.kkey (publicElem r) r.klen.toNat := by
  have hsum : ∑ j ∈ Finset.range r.klen.toNat, publicElem r j ≤ r.klen.toNat * 2 ^ 136 := by
    simpa using Finset.sum_le_card_nsmul (Finset.range r.klen.toNat) (publicElem r) (2 ^ 136)
      fun j _ => (elem r.kb j).isLt.le
  have hle := subsetSum_le_sum r.kkey (publicElem r) r.klen.toNat
  have hlen := r.klen.isLt
  rw [knapsackTotal, BitVec.toNat_ofNat, Nat.mod_eq_of_lt (by omega)]

/-- R145: `KENC` with a matching legal length. -/
theorem exec_kenc {s : State} {imm : Nat} (hm : 8 * imm = s.knap.klen.toNat)
    (hl : legalLength s.knap.klen.toNat = true) :
    exec (.kenc imm) s = .next { s with
      knap := { s.knap with kc := knapsackTotal s.knap }
      status := doneStatus s.status } :=
  (check_passes ((lengthMatches_iff imm s.knap).2 hm) ..).trans (check_passes hl ..)

/-- Settles O44: the total is the sum, and it fits its register. -/
theorem kencCompletes : Obligations.KencCompletes := by
  intro s imm hm hl
  exact ⟨_, exec_kenc hm hl, rfl, (toNat_knapsackTotal s.knap).trans (subsetSum_eq_sum ..)⟩

/-! ### `KDEC`: the greedy pass (R146) -/

/-- R146: what the greedy pass has left of `t` after element `n`. -/
def greedyLeft (w : Nat → Nat) (n t : Nat) : Nat := if w n ≤ t then t - w n else t

/-- R146: a value fits in what is left iff it fits in `t` together with element `n`, where that is taken. -/
theorem le_greedyLeft_iff (w : Nat → Nat) (n t a : Nat) :
    a ≤ greedyLeft w n t ↔ a + (if w n ≤ t then w n else 0) ≤ t := by
  rw [greedyLeft]
  split <;> omega

/-- R146: one turn of the greedy pass. -/
theorem greedyBits_succ (w : Nat → Nat) (n t : Nat) :
    greedyBits w (n + 1) t = greedyBits w n (greedyLeft w n t) + if w n ≤ t then 2 ^ (127 - n) else 0 := by
  rw [greedyBits, greedyLeft]
  split
  · exact Nat.add_comm ..
  · rfl

/-- R146: the pass over the elements below `n` sets no bit below `128 - n`. -/
theorem two_pow_dvd_greedyBits (w : Nat → Nat) {n : Nat} (hn : n ≤ 128) (t : Nat) :
    2 ^ (128 - n) ∣ greedyBits w n t := by
  induction n generalizing t with
  | zero => exact dvd_zero _
  | succ n ih =>
    rw [greedyBits_succ, show 128 - (n + 1) = 127 - n by omega]
    refine dvd_add ((Nat.pow_dvd_pow 2 (by omega)).trans (ih (by omega) _)) ?_
    split
    · exact dvd_rfl
    · exact dvd_zero _

/-- R146: the key bit that the greedy pass over the elements below `n` finds for element `j`. -/
def greedyTakes (w : Nat → Nat) (n t j : Nat) : Bool := (greedyBits w n t).testBit (127 - j)

/-- R146: no bit is set for the elements from `n` on. -/
theorem greedyTakes_of_ge (w : Nat → Nat) {n j : Nat} (t : Nat) (hn : n ≤ j) (hj : j ≤ 127) :
    greedyTakes w n t j = false := by
  obtain ⟨x, hx⟩ := two_pow_dvd_greedyBits w (n := n) (by omega) t
  rw [greedyTakes, hx, Nat.testBit_two_pow_mul, decide_eq_false (by omega), Bool.false_and]

/-- R146: element `n` sets its own bit, above those of the smaller elements. -/
theorem testBit_greedyBits_succ (w : Nat → Nat) {n : Nat} (t : Nat) (hn : n ≤ 127) (i : Nat) :
    (greedyBits w (n + 1) t).testBit i =
      ((greedyBits w n (greedyLeft w n t)).testBit i || (decide (w n ≤ t) && decide (127 - n = i))) := by
  obtain ⟨x, hx⟩ := two_pow_dvd_greedyBits w (n := n) (by omega) (greedyLeft w n t)
  have hadd : greedyBits w n (greedyLeft w n t) + 2 ^ (127 - n) =
      greedyBits w n (greedyLeft w n t) ||| 2 ^ (127 - n) := by
    rw [hx]
    exact Nat.two_pow_add_eq_or_of_lt (Nat.pow_lt_pow_right (by omega) (by omega)) x
  rw [greedyBits_succ]
  by_cases ht : w n ≤ t
  · rw [if_pos ht, hadd, Nat.testBit_or, Nat.testBit_two_pow, decide_eq_true ht, Bool.true_and]
  · rw [if_neg ht, Nat.add_zero, decide_eq_false ht, Bool.false_and, Bool.or_false]

/-- R146: the last element is looked at first, against all of `t`. -/
theorem greedyTakes_succ_self (w : Nat → Nat) {n : Nat} (t : Nat) (hn : n ≤ 127) :
    greedyTakes w (n + 1) t n = decide (w n ≤ t) := by
  have hrest := greedyTakes_of_ge w (greedyLeft w n t) le_rfl hn
  rw [greedyTakes] at hrest
  rw [greedyTakes, testBit_greedyBits_succ w t hn, hrest, decide_eq_true rfl, Bool.false_or, Bool.and_true]

/-- R146: the other elements see what the last one leaves. -/
theorem greedyTakes_succ_of_lt (w : Nat → Nat) {n j : Nat} (t : Nat) (hn : n ≤ 127) (hj : j < n) :
    greedyTakes w (n + 1) t j = greedyTakes w n (greedyLeft w n t) j := by
  rw [greedyTakes, testBit_greedyBits_succ w t hn, decide_eq_false (p := 127 - n = 127 - j) (by omega), Bool.and_false,
    Bool.or_false, greedyTakes]

/-- R146: element `j` is taken iff what is left of `t` after the larger elements taken is at least `w j`. -/
theorem greedyTakes_iff (w : Nat → Nat) {n : Nat} (hn : n ≤ 128) (t : Nat) {j : Nat} (hj : j < n) :
    greedyTakes w n t j = true ↔
      w j + ∑ i ∈ Finset.Ico (j + 1) n, (if greedyTakes w n t i then w i else 0) ≤ t := by
  induction n generalizing t with
  | zero => exact absurd hj (Nat.not_lt_zero j)
  | succ n ih =>
    have hn127 : n ≤ 127 := by omega
    obtain hlt | rfl := Nat.lt_succ_iff_lt_or_eq.1 hj
    · have hrest : ∀ i ∈ Finset.Ico (j + 1) n,
          (if greedyTakes w (n + 1) t i then w i else 0) =
            if greedyTakes w n (greedyLeft w n t) i then w i else 0 := fun i hi => by
        rw [greedyTakes_succ_of_lt w t hn127 (Finset.mem_Ico.1 hi).2]
      rw [greedyTakes_succ_of_lt w t hn127 hlt, ih (by omega) _ hlt, Finset.sum_Ico_succ_top hlt,
        Finset.sum_congr rfl hrest, greedyTakes_succ_self w t hn127, le_greedyLeft_iff, Nat.add_assoc]
      simp only [decide_eq_true_eq]
    · rw [greedyTakes_succ_self w t hn127, Finset.Ico_self, Finset.sum_empty, decide_eq_true_iff, Nat.add_zero]

/-- R141, R146: bit `j` of the key that `KDEC` writes. -/
theorem getLsbD_recoveredKey (r : KnapRegs) (j : Nat) :
    (recoveredKey r).getLsbD (127 - j) = greedyTakes (privateElem r) r.klen.toNat (targetSum r) j := by
  rw [recoveredKey, BitVec.getLsbD_ofNat, decide_eq_true (by omega), Bool.true_and, greedyTakes]

/-- R144, R146: the target sum is computed with the inverse that `KDEC` writes. -/
theorem targetSum_eq {r : KnapRegs} (h2 : 2 ≤ r.ka.toNat) (hlt : r.ka.toNat < r.km.toNat)
    (hg : Nat.gcd r.ka.toNat r.km.toNat = 1) :
    targetSum r = r.kc.toNat * (multiplierInverse r).toNat % r.km.toNat := by
  obtain ⟨-, hinv, hmul⟩ := multiplierInverse_spec h2 hlt hg
  rw [targetSum, ← modInv_unique _ _ _ (by omega) hinv hmul]

/-- R146: `KDEC` with a matching legal length and an invertible multiplier in range. -/
theorem exec_kdec {s : State} {imm : Nat} (hm : 8 * imm = s.knap.klen.toNat)
    (hl : legalLength s.knap.klen.toNat = true) (h2 : 2 ≤ s.knap.ka.toNat) (hlt : s.knap.ka.toNat < s.knap.km.toNat)
    (hg : Nat.gcd s.knap.ka.toNat s.knap.km.toNat = 1) :
    exec (.kdec imm) s = .next { s with
      knap := { s.knap with kinv := multiplierInverse s.knap, kkey := recoveredKey s.knap }
      status := doneStatus s.status } :=
  (check_passes ((lengthMatches_iff imm s.knap).2 hm) ..).trans <| (check_passes hl ..).trans <|
    (check_passes ((multiplierInRange_iff s.knap).2 ⟨h2, hlt⟩) ..).trans <|
    check_passes ((multiplierInvertible_iff s.knap).2 hg) ..

/-- Settles O45: by the bits of the greedy pass on the target sum. -/
theorem kdecCompletes : Obligations.KdecCompletes := by
  intro s imm hm hl h2 hlt hg
  obtain ⟨hpos, hinv, hmul⟩ := multiplierInverse_spec h2 hlt hg
  refine ⟨_, exec_kdec hm hl h2 hlt hg, rfl, hpos, hinv, hmul, fun j hj => ?_, fun j hj h127 => ?_⟩
  · simp only [getLsbD_recoveredKey, ← targetSum_eq h2 hlt hg]
    exact greedyTakes_iff _ (legalLength_bounds hl).2 _ hj
  · exact (getLsbD_recoveredKey s.knap j).trans (greedyTakes_of_ge _ _ hj h127)

/-! ### `KENC` and then `KDEC` (R147) -/

/-- R140, R146: on a superincreasing sequence the greedy pass finds the key of a subset sum. -/
theorem greedyTakes_subsetSum {w : Nat → Nat} {n : Nat} (hn : n ≤ 128)
    (hw : ∀ i, i < n → ∑ j ∈ Finset.range i, w j < w i) (key : BitVec 128) {j : Nat} (hj : j < n) :
    greedyTakes w n (subsetSum key w n) j = keyBit key j := by
  induction n with
  | zero => exact absurd hj (Nat.not_lt_zero j)
  | succ n ih =>
    have hlt : subsetSum key w n < w n := (subsetSum_le_sum key w n).trans_lt (hw n (by omega))
    have htake : w n ≤ subsetSum key w (n + 1) ↔ keyBit key n = true := by
      rw [subsetSum]
      split
      · next h => simp [h]
      · next h => simpa [h] using hlt
    have hleft : greedyLeft w n (subsetSum key w (n + 1)) = subsetSum key w n := by
      rw [greedyLeft, if_congr htake rfl rfl, subsetSum]
      split <;> omega
    obtain h | rfl := Nat.lt_succ_iff_lt_or_eq.1 hj
    · rw [greedyTakes_succ_of_lt w _ (by omega) h, hleft]
      exact ih (by omega) (fun i hi => hw i (by omega)) h
    · rw [greedyTakes_succ_self w _ (by omega)]
      exact Bool.eq_iff_iff.2 (decide_eq_true_iff.trans htake)

/-- R140, R147: the total of the public elements is the multiplier times that of `KW`, modulo the modulus. -/
theorem subsetSum_modEq {a m n : Nat} {w b : Nat → Nat} (hb : ∀ i, i < n → b i = a * w i % m) (key : BitVec 128) :
    subsetSum key b n ≡ a * subsetSum key w n [MOD m] := by
  induction n with
  | zero => rfl
  | succ n ih =>
    rw [subsetSum, subsetSum, Nat.mul_add]
    refine (ih fun i hi => hb i (by omega)).add ?_
    split
    · rw [hb n (by omega)]
      exact Nat.mod_modEq _ _
    · rfl

/-- R147: with a key pair in the registers, `KDEC` computes from the total of `KENC` the same total over `KW`. -/
theorem targetSum_of_knapsackTotal {r : KnapRegs} (h : IsKeyPair r) :
    targetSum { r with kc := knapsackTotal r } = subsetSum r.kkey (privateElem r) r.klen.toNat := by
  obtain ⟨-, -, hsum, h2, hlt, hg, hpub⟩ := h
  obtain ⟨-, -, hmul⟩ := multiplierInverse_spec h2 hlt hg
  refine (targetSum_eq (r := { r with kc := knapsackTotal r }) h2 hlt hg).trans ?_
  change (knapsackTotal r).toNat * (multiplierInverse r).toNat % r.km.toNat = _
  generalize (multiplierInverse r).toNat = x at hmul ⊢
  have hone : r.ka.toNat * x ≡ 1 [MOD r.km.toNat] := by
    rw [Nat.ModEq, hmul, Nat.mod_eq_of_lt (by omega)]
  rw [toNat_knapsackTotal]
  refine Eq.trans ?_ (Nat.mod_eq_of_lt ((subsetSum_le_sum ..).trans_lt hsum))
  calc subsetSum r.kkey (publicElem r) r.klen.toNat * x
    _ ≡ r.ka.toNat * subsetSum r.kkey (privateElem r) r.klen.toNat * x [MOD r.km.toNat] :=
      (subsetSum_modEq hpub r.kkey).mul_right x
    _ = r.ka.toNat * x * subsetSum r.kkey (privateElem r) r.klen.toNat := Nat.mul_right_comm ..
    _ ≡ 1 * subsetSum r.kkey (privateElem r) r.klen.toNat [MOD r.km.toNat] := hone.mul_right _
    _ = subsetSum r.kkey (privateElem r) r.klen.toNat := Nat.one_mul _

/-- Settles O46: the target sum is the total that the key selects of `KW`, and the greedy pass finds the key of that. -/
theorem encapsulateThenDecapsulate : Obligations.EncapsulateThenDecapsulate := by
  intro s len hpair hm
  have htarget := targetSum_of_knapsackTotal hpair
  obtain ⟨hl, hw, -, h2, hlt, hg, -⟩ := hpair
  refine ⟨_, _, exec_kenc hm hl, rfl, exec_kdec hm hl h2 hlt hg, rfl, fun j hj => ?_⟩
  refine (getLsbD_recoveredKey _ j).trans ?_
  rw [htarget]
  change greedyTakes (privateElem s.knap) s.knap.klen.toNat _ j = (_ && keyBit s.knap.kkey j)
  obtain h | h := Nat.lt_or_ge j s.knap.klen.toNat
  · rw [greedyTakes_subsetSum (legalLength_bounds hl).2 hw _ h, decide_eq_true h, Bool.true_and]
  · rw [greedyTakes_of_ge _ _ h hj, decide_eq_false (by omega), Bool.false_and]

end Sys2Proof.Machine

/-! ## Proofs: the cases of `PointAdd` and its commutativity (spec/43_ec.md R163) -/

namespace Sys2Proof.Machine

/-- R163: opposite points add up to infinity. -/
theorem pointAdd_opposite {c : Curve} {x1 y1 x2 y2 : Nat} (h : x1 = x2 ∧ (y1 + y2) % c.p = 0) :
    pointAdd c (.affine x1 y1) (.affine x2 y2) = some .infinity := by
  rw [pointAdd, if_pos h.1, if_pos h.2]

/-- R163: there is no sum where the formulas divide by zero. -/
theorem pointAdd_of_zeroDivisor {c : Curve} {p q : Point} (h : ZeroDivisor c p q) : pointAdd c p q = none := by
  match p, q, h with
  | .affine x1 y1, .affine x2 y2, ⟨hx, hsum, hzero⟩ =>
    rw [pointAdd, if_pos hx, if_neg hsum, modDiv, if_pos hzero, Option.map_none]

/-- R163: over a prime field reduced points have no sum exactly where the formulas divide by zero. -/
theorem zeroDivisor_iff {c : Curve} (hp : Nat.Prime c.p) {p q : Point} (h1 : p.Reduced c) (h2 : q.Reduced c) :
    ZeroDivisor c p q ↔ pointAdd c p q = none := by
  refine ⟨pointAdd_of_zeroDivisor, fun hnone => ?_⟩
  by_contra hdiv
  obtain ⟨r, hr, -⟩ := pointAdd_reduced hp h1 h2 hdiv
  exact Option.some_ne_none r (hr.symm.trans hnone)

theorem pointAdd_infinity (c : Curve) (p : Point) : pointAdd c p .infinity = some p := by
  cases p <;> rfl

/-- Settles O48: the sum of points that are not opposite is the third point, unless the formulas divide by zero. -/
theorem pointAddByCases : Obligations.PointAddByCases := by
  intro c hp _
  refine ⟨fun q => ⟨rfl, pointAdd_infinity c q⟩, fun x1 y1 x2 y2 hx1 hy1 hx2 hy2 => ?_⟩
  exact ⟨pointAdd_opposite, zeroDivisor_iff hp ⟨hx1, hy1⟩ ⟨hx2, hy2⟩, pointAdd_thirdPoint hp hx1 hx2⟩

/-- R163: the line through two points of different x has one slope and one third point, in whichever order they are taken. -/
theorem thirdPoint_swap {c : Curve} [Fact (Nat.Prime c.p)] {x1 y1 x2 y2 lam lam' x3 y3 x3' y3' : Nat} (hx1 : x1 < c.p)
    (hx2 : x2 < c.p) (hx : x1 ≠ x2) (hlam : IsSlope c x1 y1 x2 y2 lam) (hlam' : IsSlope c x2 y2 x1 y1 lam')
    (h3 : IsThirdPoint c x1 y1 x2 lam x3 y3) (h3' : IsThirdPoint c x2 y2 x1 lam' x3' y3') : x3 = x3' ∧ y3 = y3' := by
  rw [IsSlope, if_neg hx] at hlam
  rw [IsSlope, if_neg hx.symm] at hlam'
  have hden : (x2 : ZMod c.p) - x1 ≠ 0 := sub_ne_zero.2 (mt (natCast_inj_of_lt hx2 hx1).1 hx.symm)
  have hslope : (lam : ZMod c.p) = lam' := mul_right_cancel₀ hden (by linear_combination hlam + hlam')
  obtain ⟨hlt, hylt, hX, hY⟩ := h3
  obtain ⟨hlt', hylt', hX', hY'⟩ := h3'
  rw [← hslope] at hX' hY'
  have hXX : (x3 : ZMod c.p) = x3' := by rw [hX, hX']; ring
  rw [← hXX] at hY'
  exact ⟨(natCast_inj_of_lt hlt hlt').1 hXX, (natCast_inj_of_lt hylt hylt').1 (by linear_combination hY - hY' - hlam)⟩

/-- R163: points of different x have a sum in both orders, and it is the same. -/
theorem pointAdd_comm_of_ne {c : Curve} (hp : Nat.Prime c.p) {x1 x2 : Nat} (y1 y2 : Nat) (hx1 : x1 < c.p)
    (hx2 : x2 < c.p) (hx : x1 ≠ x2) :
    pointAdd c (.affine x1 y1) (.affine x2 y2) = pointAdd c (.affine x2 y2) (.affine x1 y1) := by
  have := Fact.mk hp
  obtain ⟨lam, x3, y3, hadd, hlam, h3⟩ := pointAdd_thirdPoint (y1 := y1) (y2 := y2) hp hx1 hx2 (fun h => hx h.1)
    fun h => hx h.1
  obtain ⟨lam', x3', y3', hadd', hlam', h3'⟩ := pointAdd_thirdPoint (y1 := y2) (y2 := y1) hp hx2 hx1
    (fun h => hx h.1.symm) fun h => hx h.1.symm
  obtain ⟨rfl, rfl⟩ := thirdPoint_swap hx1 hx2 hx hlam hlam' h3 h3'
  rw [hadd, hadd']

/-- R163: on the curve `PointAdd` is commutative. -/
theorem pointAdd_comm {c : Curve} (hp : Nat.Prime c.p) {p q : Point} (h1 : OnCurve c p) (h2 : OnCurve c q) :
    pointAdd c p q = pointAdd c q p := by
  match p, q with
  | .infinity, q => rw [pointAdd_infinity, pointAdd]
  | .affine x1 y1, .infinity => rfl
  | .affine x1 y1, .affine x2 y2 =>
    by_cases hx : x1 = x2
    · by_cases hsum : (y1 + y2) % c.p = 0
      · rw [pointAdd_opposite ⟨hx, hsum⟩, pointAdd_opposite ⟨hx.symm, Nat.add_comm y1 y2 ▸ hsum⟩]
      · rw [hx, y_eq_of_not_opposite h1 h2 hp hx hsum]
    · exact pointAdd_comm_of_ne hp y1 y2 h1.1 h2.1 hx

/-- Settles O49: the sum is on the curve, and `PointAdd` is commutative there. -/
theorem pointAddStaysOnCurve : Obligations.PointAddStaysOnCurve := by
  intro c p q hp _ h1 h2
  obtain ⟨r, hr, hon⟩ := pointAdd_onCurve hp h1 h2
  exact ⟨r, hr, hon, (pointAdd_comm hp h2 h1).trans hr⟩

end Sys2Proof.Machine

/-! ## Proofs: `EPMUL` off the curve (spec/43_ec.md R162 to R164, R168) -/

namespace Sys2Proof.Machine

/-- `PointAdd` does not use `b` (R163), so a pair of coordinates is as good as a point of the curve through it with the
same `p` and `a`. -/
def curveThrough (c : Curve) (x y : Nat) : Curve := { c with b := modSub c.p (y * y) (x ^ 3 + c.a * x) }

theorem onCurve_through {c : Curve} {x y : Nat} (hx : x < c.p) (hy : y < c.p) :
    OnCurve (curveThrough c x y) (.affine x y) := by
  refine ⟨hx, hy, ?_⟩
  change y * y ≡ x ^ 3 + c.a * x + modSub c.p (y * y) (x ^ 3 + c.a * x) [MOD c.p]
  rw [← ZMod.natCast_eq_natCast_iff, Nat.cast_add, natCast_modSub _ _ _ (by omega)]
  ring

theorem pointAdd_through (c : Curve) (x y : Nat) (p q : Point) : pointAdd (curveThrough c x y) p q = pointAdd c p q := by
  cases p <;> cases q <;> rfl

theorem scalarLoop_through (c : Curve) (x y i : Nat) :
    ∀ (k : Nat) (r a : Point), scalarLoop (curveThrough c x y) i k r a = scalarLoop c i k r a := by
  induction i with
  | zero => exact fun _ _ _ => rfl
  | succ i ih => simp only [scalarLoop, pointAdd_through, ih, implies_true]

/-- R162, R164: over a prime field every multiple of a reduced point exists and is reduced. -/
theorem scalarMul_reduced {c : Curve} (hp : Nat.Prime c.p) {p : Point} (h : p.Reduced c) (k : Nat) :
    ∃ r, scalarMul c k p = some r ∧ r.Reduced c := by
  match p with
  | .infinity => exact ⟨.infinity, scalarMul_infinity c k, trivial⟩
  | .affine x y =>
    obtain ⟨r, hr, hon⟩ := scalarMul_onCurve (c := curveThrough c x y) hp (onCurve_through h.1 h.2) k
    refine ⟨r, (scalarLoop_through c x y _ k .infinity (.affine x y)).symm.trans hr, ?_⟩
    match r with
    | .infinity => trivial
    | .affine x3 y3 => exact ⟨hon.1, hon.2.1⟩

/-- Settles O52: the multiples of one pair of coordinates are computed on a curve through it. -/
theorem epmulCompletesOffCurve : Obligations.EpmulCompletesOffCurve := by
  intro s hwf hp hP
  have hP' := (pointLegal_iff_reduced ..).1 ((pointLegal_iff ..).2 hP)
  obtain ⟨r, hmul, hr⟩ := scalarMul_reduced hp hP' s.ec.ek.toNat
  have hregs := pointOf_withResult (Curve.wf_field (Config.wf_curve hwf)).2 s.ec hr
  exact ⟨_, exec_epmul hP' hmul, rfl, hmul.trans (congrArg some hregs.symm)⟩

end Sys2Proof.Machine

/-! ## Proofs: `ScalarMul` is the multiple in the group of the curve (spec/43_ec.md R160, R163, R164) -/

namespace Sys2Proof.Machine

/-! ### The points as elements of Mathlib's group -/

/-- R160: the discriminant of a well-formed curve is not 0. -/
theorem weierstrass_discriminant_ne_zero {c : Curve} (hp : Nat.Prime c.p) (hwf : c.wf = true) :
    (weierstrass c).Δ ≠ 0 := by
  have := Fact.mk hp
  obtain ⟨hp3, -⟩ := Curve.wf_field hwf
  simp only [Curve.wf, Bool.and_eq_true, decide_eq_true_eq] at hwf
  obtain ⟨⟨-, hdisc⟩, -⟩ := hwf
  have hdisc' : ((4 * c.a ^ 3 + 27 * c.b ^ 2 : Nat) : ZMod c.p) ≠ 0 := fun h =>
    hdisc (Nat.mod_eq_zero_of_dvd ((ZMod.natCast_eq_zero_iff _ _).1 h))
  have h2 : ((2 : Nat) : ZMod c.p) ≠ 0 := fun h =>
    absurd (Nat.le_of_dvd two_pos ((ZMod.natCast_eq_zero_iff _ _).1 h)) (by omega)
  have hΔ : (weierstrass c).Δ = -((2 : Nat) : ZMod c.p) ^ 4 * ((4 * c.a ^ 3 + 27 * c.b ^ 2 : Nat) : ZMod c.p) := by
    simp only [WeierstrassCurve.Δ, WeierstrassCurve.b₂, WeierstrassCurve.b₄, WeierstrassCurve.b₆, WeierstrassCurve.b₈,
      weierstrass]
    push_cast
    ring
  rw [hΔ]
  exact mul_ne_zero (neg_ne_zero.2 (pow_ne_zero 4 h2)) hdisc'

/-- R162, R163: the element of the curve's group that a point stands for. -/
def StandsFor (c : Curve) : Point → (weierstrass c).Point → Prop
  | .infinity, P => P = .zero
  | .affine x y, P => x < c.p ∧ y < c.p ∧ ∃ h : (weierstrass c).Nonsingular x y, P = .some x y h

theorem StandsFor.onCurve {c : Curve} {p : Point} {P : (weierstrass c).Point} (h : StandsFor c p P) : OnCurve c p := by
  match p, h with
  | .infinity, _ => trivial
  | .affine x y, ⟨hx, hy, hns, _⟩ => exact (onCurve_affine_iff c x y).2 ⟨hx, hy, hns.1⟩

/-- R160: on a well-formed curve every point stands for an element of the group. -/
theorem exists_standsFor {c : Curve} (hp : Nat.Prime c.p) (hwf : c.wf = true) {p : Point} (h : OnCurve c p) :
    ∃ P, StandsFor c p P := by
  match p with
  | .infinity => exact ⟨.zero, rfl⟩
  | .affine x y =>
    obtain ⟨hx, hy, heq⟩ := (onCurve_affine_iff c x y).1 h
    have hns := ((weierstrass c).equation_iff_nonsingular_of_Δ_ne_zero
      (weierstrass_discriminant_ne_zero hp hwf)).1 heq
    exact ⟨.some x y hns, hx, hy, hns, rfl⟩

/-- Two points that stand for one element are equal. -/
theorem StandsFor.unique {c : Curve} {p q : Point} {P : (weierstrass c).Point} (h1 : StandsFor c p P)
    (h2 : StandsFor c q P) : p = q := by
  match p, q, h1, h2 with
  | .infinity, .infinity, _, _ => rfl
  | .infinity, .affine x y, h1, ⟨_, _, _, h2⟩ => cases h1.symm.trans h2
  | .affine x y, .infinity, ⟨_, _, _, h1⟩, h2 => cases h1.symm.trans h2
  | .affine x1 y1, .affine x2 y2, ⟨hx1, hy1, _, h1⟩, ⟨hx2, hy2, _, h2⟩ =>
    obtain ⟨hx, hy⟩ := WeierstrassCurve.Affine.Point.some.inj (h1.symm.trans h2)
    rw [(natCast_inj_of_lt hx1 hx2).1 hx, (natCast_inj_of_lt hy1 hy2).1 hy]

/-- R163: the third point has the coordinates of Mathlib's sum. -/
theorem addX_addY_eq {c : Curve} {x1 y1 x2 lam x3 y3 : Nat} (h3 : IsThirdPoint c x1 y1 x2 lam x3 y3) :
    (weierstrass c).addX x1 x2 lam = x3 ∧ (weierstrass c).addY x1 x2 y1 lam = y3 := by
  obtain ⟨-, -, hx, hy⟩ := h3
  have hX : (weierstrass c).addX x1 x2 lam = x3 := by
    rw [hx, WeierstrassCurve.Affine.addX]
    simp only [weierstrass]
    ring
  refine ⟨hX, ?_⟩
  rw [hy, WeierstrassCurve.Affine.addY, WeierstrassCurve.Affine.negAddY, hX, WeierstrassCurve.Affine.negY]
  simp only [weierstrass]
  ring

section Group

variable {c : Curve} [Fact (Nat.Prime c.p)] {p q : Point} {P Q : (weierstrass c).Point}

/-- R163: `PointAdd` is the addition of the group. -/
theorem StandsFor.add (h1 : StandsFor c p P) (h2 : StandsFor c q Q) :
    ∃ r, pointAdd c p q = some r ∧ StandsFor c r (P + Q) := by
  have hp : Nat.Prime c.p := Fact.out
  match p, q with
  | .infinity, q =>
    cases h1
    exact ⟨q, rfl, (zero_add Q).symm ▸ h2⟩
  | .affine x1 y1, .infinity =>
    cases h2
    exact ⟨.affine x1 y1, rfl, (add_zero P).symm ▸ h1⟩
  | .affine x1 y1, .affine x2 y2 =>
    have hon1 := h1.onCurve
    have hon2 := h2.onCurve
    obtain ⟨hx1, -, hns1, rfl⟩ := h1
    obtain ⟨hx2, -, hns2, rfl⟩ := h2
    by_cases hopp : x1 = x2 ∧ (y1 + y2) % c.p = 0
    · exact ⟨.infinity, pointAdd_opposite hopp,
        WeierstrassCurve.Affine.Point.add_of_Y_eq (congrArg _ hopp.1) ((eq_negY_iff c _ y1 y2).2 hopp.2)⟩
    · obtain ⟨lam, x3, y3, hadd, hlam, h3⟩ :=
        pointAdd_thirdPoint hp hx1 hx2 hopp (not_zeroDivisor_of_onCurve hon1 hon2 hp)
      obtain ⟨hX, hY⟩ := addX_addY_eq h3
      rw [natCast_eq_slope hon1 hon2 hopp hlam] at hX hY
      have hopp' := mt (And.imp (natCast_inj_of_lt hx1 hx2).1 (eq_negY_iff c x2 y1 y2).1) hopp
      have hns3 := WeierstrassCurve.Affine.nonsingular_add hns1 hns2 hopp'
      rw [hX, hY] at hns3
      refine ⟨.affine x3 y3, hadd, h3.1, h3.2.1, hns3, ?_⟩
      simp only [WeierstrassCurve.Affine.Point.add_some hopp', hX, hY]

/-! ### Double and add -/

/-- R164: what the loop adds to the accumulator `R` is the multiple of `A` by the bits of `k` that it scans. -/
theorem StandsFor.doubleAndAdd (i : Nat) : ∀ {k : Nat} {r a : Point} {R A : (weierstrass c).Point}, k < 2 ^ i →
    StandsFor c r R → StandsFor c a A → ∃ t, scalarLoop c i k r a = some t ∧ StandsFor c t (R + k • A) := by
  induction i with
  | zero =>
    intro k r a R A hk hr _
    obtain rfl : k = 0 := by omega
    exact ⟨r, rfl, by rwa [zero_nsmul, add_zero]⟩
  | succ i ih =>
    intro k r a R A hk hr ha
    have hstep : ∃ r', (if k % 2 = 1 then pointAdd c r a else some r) = some r' ∧
        StandsFor c r' (R + (k % 2) • A) := by
      split
      · next h => rw [h, one_nsmul]; exact hr.add ha
      · next h =>
        rw [show k % 2 = 0 by omega, zero_nsmul, add_zero]
        exact ⟨r, rfl, hr⟩
    obtain ⟨r', hr', hR'⟩ := hstep
    obtain ⟨a', ha', hA'⟩ := ha.add ha
    obtain ⟨t, ht, hT⟩ := ih (k := k / 2) (by omega) hR' hA'
    refine ⟨t, by simp only [scalarLoop, hr', ha', ht], ?_⟩
    rwa [add_assoc, ← two_nsmul, ← mul_nsmul, ← add_nsmul, Nat.mod_add_div] at hT

/-- R164: `ScalarMul(k, P)` is the multiple of `P` in the group. -/
theorem StandsFor.nsmul (h : StandsFor c p P) {k : Nat} (hk : k < 2 ^ 192) :
    ∃ r, scalarMul c k p = some r ∧ StandsFor c r (k • P) := by
  rw [← zero_add (k • P)]
  exact StandsFor.doubleAndAdd Config.ecw hk rfl h

end Group

/-- Settles O53: one multiple more is one addition more in the group, and a point is the only one that stands for its
element. -/
theorem scalarMulIsTheMultiple : Obligations.ScalarMulIsTheMultiple := by
  intro c p hp hwf hon
  have := Fact.mk hp
  obtain ⟨P, hP⟩ := exists_standsFor hp hwf hon
  constructor
  · obtain ⟨t, ht, -⟩ := scalarMul_onCurve hp hon 0
    rwa [scalarMul_zero ht] at ht
  · intro k hk
    obtain ⟨r, hr, hR⟩ := hP.nsmul (k := k) (by omega)
    obtain ⟨r', hr', hR'⟩ := hR.add hP
    obtain ⟨t, ht, hT⟩ := hP.nsmul hk
    rw [succ_nsmul] at hT
    exact ⟨r, r', hr, hr', hT.unique hR' ▸ ht⟩

end Sys2Proof.Machine

/-! ## Proofs: `EVERIFY`, and that it accepts what `ESIGN` signs (spec/43_ec.md R171 to R174) -/

namespace Sys2Proof.Machine

/-! ### `EVERIFY` -/

theorem inScalarRange_iff (c : Curve) (v : Scalar) : inScalarRange c v = true ↔ 0 < v.toNat ∧ v.toNat < c.n := by
  simp only [inScalarRange, Bool.and_eq_true, decide_eq_true_eq]
  omega

/-- R164, R173: `X` is `u1 G + u2 Q` with `u1 = z w` and `u2 = r w` modulo `n`, no division by zero occurring. -/
def IsVerifySum (c : Curve) (q : Point) (z r w : Nat) (X : Point) : Prop :=
  ∃ p1 p2, scalarMul c (z * w % c.n) (basePoint c) = some p1 ∧ scalarMul c (r * w % c.n) q = some p2 ∧
    pointAdd c p1 p2 = some X

theorem verifyPoint_eq_some (c : Curve) (q : Point) (z r s : Nat) (X : Point) :
    verifyPoint c q z r s = some X ↔ IsVerifySum c q z r (modInv s c.n) X := by
  unfold verifyPoint IsVerifySum
  dsimp only
  split
  · next p1 p2 h1 h2 => simp [h1, h2]
  · next h =>
    constructor
    · rintro ⟨⟩
    · rintro ⟨p1, p2, h1, h2, -⟩
      exact (h p1 p2 h1 h2).elim

/-- R173: the sum must be finite, with `r` for its x modulo `n`. -/
theorem verifySig_iff (c : Curve) (q : Point) (z r s : Nat) :
    verifySig c q z r s = true ↔ ∃ x y, IsVerifySum c q z r (modInv s c.n) (.affine x y) ∧ x % c.n = r := by
  simp only [← verifyPoint_eq_some]
  unfold verifySig
  split
  · next x y h => simp [h]
  · next h =>
    constructor
    · rintro ⟨⟩
    · rintro ⟨x, y, hX, -⟩
      exact (h x y hX).elim

/-- R173: the scalars of the signature are in `[1, n-1]`, and `Q` is a finite pair of coordinates below `p`. -/
def WellFormedSignature (c : Curve) (r : CurveRegs) : Prop :=
  (0 < r.er.toNat ∧ r.er.toNat < c.n) ∧ (0 < r.es.toNat ∧ r.es.toNat < c.n) ∧ r.qinf = false ∧
    r.eqx.toNat < c.p ∧ r.eqy.toNat < c.p

theorem verifyAnswer_iff (c : Curve) (r : CurveRegs) :
    verifyAnswer c r = true ↔ WellFormedSignature c r ∧
      verifySig c (pointQ r) (digestScalar c r.ee) r.er.toNat r.es.toNat = true := by
  simp only [verifyAnswer, Bool.and_eq_true, inScalarRange_iff, WellFormedSignature, coordsBelow, Bool.not_eq_true',
    decide_eq_true_eq, and_assoc]

theorem exec_everify (s : State) :
    exec .everify s = .next { s with
      status := { doneStatus s.status with vok := verifyAnswer s.cfg.curve s.ec } } := rfl

/-- Settles O57: the answer is that of the formulas where the signature is well formed, and false elsewhere. -/
theorem everifyCompletes : Obligations.EverifyCompletes := by
  intro s _ hn
  refine ⟨_, exec_everify s, rfl, fun hbad => ?_, fun hr0 hrn hs0 hsn hq hx hy => ?_⟩
  · refine Bool.eq_false_iff.2 fun hvok => ?_
    obtain ⟨⟨⟨hr0, hrn⟩, ⟨hs0, hsn⟩, hq, hx, hy⟩, -⟩ := (verifyAnswer_iff ..).1 hvok
    rw [hq] at hbad
    simp only [Bool.false_eq_true, false_or] at hbad
    omega
  · have hmod : s.ec.es.toNat % s.cfg.curve.n = s.ec.es.toNat := Nat.mod_eq_of_lt hsn
    obtain ⟨-, hw, hinv⟩ := modInv_spec s.ec.es.toNat s.cfg.curve.n hn.two_le (gcd_mod_eq_one_of_prime hn (by omega))
    refine ⟨modInv s.ec.es.toNat s.cfg.curve.n, hw, hinv, ?_⟩
    have hQ : pointQ s.ec = .affine s.ec.eqx.toNat s.ec.eqy.toNat := by simp [pointQ, pointOf, hq]
    refine (verifyAnswer_iff ..).trans ((and_iff_right ⟨⟨hr0, hrn⟩, ⟨hs0, hsn⟩, hq, hx, hy⟩).trans ?_)
    rw [verifySig_iff, hQ]
    constructor
    · rintro ⟨x, y, ⟨p1, p2, h1, h2, hadd⟩, hx⟩
      exact ⟨p1, p2, x, y, h1, h2, hadd, hx⟩
    · rintro ⟨p1, p2, x, y, h1, h2, hadd, hx⟩
      exact ⟨x, y, ⟨p1, p2, h1, h2, hadd⟩, hx⟩

/-! ### `ESIGN` and then `EVERIFY` -/

/-- R172: an `ESIGN` that ends in a next state, with `ED` in range, leaves the signature of an accepted `k`. -/
theorem exec_esign_eq_next {s t : State} (h1 : 1 ≤ s.ec.ed.toNat) (hn : s.ec.ed.toNat ≤ s.cfg.curve.n - 1)
    (h : exec .esign s = .next t) :
    ∃ k r sg, 1 ≤ k ∧ k ≤ s.cfg.curve.n - 1 ∧ signWith s k = some (r, sg) ∧ t.cfg = s.cfg ∧
      t.ec = { s.ec with er := BitVec.ofNat 192 r, es := BitVec.ofNat 192 sg } := by
  cases hd : drawUntil 1 (s.cfg.curve.n - 1) (signWith s) s.src with
  | none =>
    change execEsign s = _ at h
    rw [execEsign, if_neg (by simp [inScalarRange, h1, hn]), hd] at h
    cases h
  | some result =>
    obtain ⟨⟨r, sg⟩, src⟩ := result
    obtain ⟨k, ⟨hlo, hhi⟩, hok, -⟩ := drawUntil_spec (h1.trans hn) hd
    cases (exec_esign h1 hn hd).symm.trans h
    exact ⟨k, r, sg, hlo, hhi, hok, rfl, rfl⟩

/-- R174: with `s k = z + r d` and `w` the inverse of `s`, the scalars of the verification give `u1 + u2 d = k`. -/
theorem verifyScalars_modEq {n d z r s k w : Nat} (hs : s * k % n = (z + r * d) % n) (hw : s * w ≡ 1 [MOD n]) :
    z * w % n + d * (r * w % n) ≡ k [MOD n] :=
  calc z * w % n + d * (r * w % n)
    _ ≡ z * w + d * (r * w) [MOD n] := (Nat.mod_modEq _ _).add ((Nat.mod_modEq _ _).mul_left d)
    _ = (z + r * d) * w := by ring
    _ ≡ s * k * w [MOD n] := Nat.ModEq.mul_right w hs.symm
    _ = s * w * k := Nat.mul_right_comm ..
    _ ≡ 1 * k [MOD n] := hw.mul_right k
    _ = k := Nat.one_mul k

/-- R164: on a legal curve the multiples of the base point depend on the scalar modulo `n` alone. -/
theorem nsmul_basePoint_congr {c : Curve} [Fact (Nat.Prime c.p)] (h : Curve.Legal c) {G : (weierstrass c).Point}
    (hG : StandsFor c (basePoint c) G) {i j : Nat} (hij : i ≡ j [MOD c.n]) : i • G = j • G := by
  obtain ⟨hwf, -, -, horder, -⟩ := h
  obtain ⟨o, ho, hO⟩ := hG.nsmul (Curve.wf_order hwf).2
  cases ho.symm.trans horder
  exact nsmul_eq_nsmul_iff_modEq.2 (hij.of_dvd (addOrderOf_dvd_of_nsmul_eq_zero hO))

/-- R174: on a legal curve a signature made with `d` verifies under `d G`. -/
theorem verifySig_of_signAttempt {c : Curve} (h : Curve.Legal c) {d z k r s : Nat} {q : Point} (hd : d < 2 ^ 192)
    (hq : scalarMul c d (basePoint c) = some q) (h0 : 0 < k) (hk : k < c.n) (hsign : signAttempt c d z k = some (r, s)) :
    verifySig c q z r s = true := by
  have ⟨hwf, hp, hn, _⟩ := h
  have := Fact.mk hp
  have hfit : ∀ v, v % c.n < 2 ^ 192 := fun v => (Nat.mod_lt v hn.pos).trans (Curve.wf_order hwf).2
  obtain ⟨⟨x, y, hmul, hx⟩, -, ⟨hs0, hsn⟩, heq⟩ := signAttempt_spec hn h0 hk hsign
  have hs : s % c.n ≠ 0 := by rw [Nat.mod_eq_of_lt hsn]; omega
  obtain ⟨-, -, hinv⟩ := modInv_spec s c.n hn.two_le (gcd_mod_eq_one_of_prime hn hs)
  obtain ⟨G, hG⟩ := exists_standsFor hp hwf (basePoint_onCurve hwf)
  obtain ⟨q', hq', hQ⟩ := hG.nsmul hd
  cases hq'.symm.trans hq
  obtain ⟨p1, h1, hP1⟩ := hG.nsmul (hfit (z * modInv s c.n))
  obtain ⟨p2, h2, hP2⟩ := hQ.nsmul (hfit (r * modInv s c.n))
  obtain ⟨X, hadd, hX⟩ := hP1.add hP2
  obtain ⟨p, hp', hP⟩ := hG.nsmul (k := k) (hk.trans (Curve.wf_order hwf).2)
  cases hp'.symm.trans hmul
  have hk' : z * modInv s c.n % c.n + d * (r * modInv s c.n % c.n) ≡ k [MOD c.n] :=
    verifyScalars_modEq heq (hinv.trans (Nat.mod_eq_of_lt hn.one_lt).symm)
  rw [← mul_nsmul, ← add_nsmul, nsmul_basePoint_congr h hG hk'] at hX
  cases hX.unique hP
  exact (verifySig_iff ..).2 ⟨x, y, ⟨p1, p2, h1, h2, hadd⟩, hx.symm⟩

/-- Settles O58: the sum that `EVERIFY` computes is `k G`, whose x modulo `n` is the `r` that `ESIGN` wrote. -/
theorem signThenVerify : Obligations.SignThenVerify := by
  intro s t hlegal h1 hn hqinf hq hsign
  obtain ⟨k, r, sg, hk1, hkn, hok, hcfg, hec⟩ := exec_esign_eq_next h1 hn hsign
  have ⟨hwf, hp, hprime, _⟩ := hlegal
  obtain ⟨-, ⟨hr0, hrn⟩, ⟨hs0, hsn⟩, -⟩ := signAttempt_spec hprime hk1 (by omega) hok
  have hfit := (Curve.wf_order hwf).2
  have hr : (BitVec.ofNat 192 r).toNat = r := by rw [BitVec.toNat_ofNat, Nat.mod_eq_of_lt (hrn.trans hfit)]
  have hs : (BitVec.ofNat 192 sg).toNat = sg := by rw [BitVec.toNat_ofNat, Nat.mod_eq_of_lt (hsn.trans hfit)]
  obtain ⟨q, hq', hon⟩ := scalarMul_onCurve hp (basePoint_onCurve hwf) s.ec.ed.toNat
  cases hq'.symm.trans hq
  obtain ⟨hx, hy⟩ := ((pointLegal_iff ..).1 ((pointLegal_iff_reduced ..).2 hon.reduced)).resolve_left
    (Bool.eq_false_iff.1 hqinf)
  refine ⟨_, exec_everify t, (verifyAnswer_iff ..).2 ?_, rfl⟩
  rw [hcfg, hec]
  dsimp only
  rw [hr, hs]
  refine ⟨⟨?_, ?_, hqinf, hx, hy⟩, verifySig_of_signAttempt hlegal s.ec.ed.isLt hq hk1 (by omega) hok⟩
  · exact ⟨hr.symm ▸ hr0, hr.symm ▸ hrn⟩
  · exact ⟨hs.symm ▸ hs0, hs.symm ▸ hsn⟩

end Sys2Proof.Machine

/-! ## Proofs: `ELDG`, and the errors of the curve commands (spec/43_ec.md R166 to R172, spec/60_exceptions.md R223) -/

namespace Sys2Proof.Machine

/-- Settles O47: the base point's coordinates are below `p`, so they fit their registers. -/
theorem eldgCompletes : Obligations.EldgCompletes := by
  intro s hwf
  have hcurve := Config.wf_curve hwf
  have hfit := (Curve.wf_field hcurve).2
  obtain ⟨hx, hy, -⟩ := basePoint_onCurve hcurve
  refine ⟨_, rfl, rfl, ?_, ?_⟩
  · exact BitVec.toNat_ofNat .. |>.trans (Nat.mod_eq_of_lt (hx.trans hfit))
  · exact BitVec.toNat_ofNat .. |>.trans (Nat.mod_eq_of_lt (hy.trans hfit))

/-- R167: a finite operand with a coordinate that is not below `p` fails the operand check. -/
theorem not_pointLegal {c : Curve} {x y : Scalar} {inf : Bool} (hinf : inf = false)
    (h : c.p ≤ x.toNat ∨ c.p ≤ y.toNat) : ¬ pointLegal c x y inf = true := by
  rw [pointLegal_iff, hinf]
  rintro (hfalse | ⟨hx, hy⟩)
  · cases hfalse
  · omega

/-- R167: `EPADD` of an operand `Q` that is no point fails, whatever `P` is. -/
theorem exec_epadd_of_illegalQ {s : State} (h : ¬ pointLegal s.cfg.curve s.ec.eqx s.ec.eqy s.ec.qinf = true) :
    exec .epadd s = .next (failState s 0x07) := by
  by_cases hP : pointLegal s.cfg.curve s.ec.epx s.ec.epy s.ec.pinf = true
  · exact (check_passes hP ..).trans (check_fails h .illegalOperand s _)
  · exact check_fails hP .illegalOperand s _

/-- R167: `EPADD` without a sum fails, whether or not its operands are points. -/
theorem exec_epadd_of_none {s : State} (h : pointAdd s.cfg.curve (pointP s.ec) (pointQ s.ec) = none) :
    exec .epadd s = .next (failState s 0x07) := by
  change execEpadd s = _
  rw [execEpadd, h, ite_self, ite_self]
  exact raise_eq_failState .illegalOperand s

/-- R168: `EPMUL` without a multiple fails, whether or not its operand is a point. -/
theorem exec_epmul_of_none {s : State} (h : scalarMul s.cfg.curve s.ec.ek.toNat (pointP s.ec) = none) :
    exec .epmul s = .next (failState s 0x07) := by
  change execEpmul s = _
  rw [execEpmul, h, ite_self]
  exact raise_eq_failState .illegalOperand s

/-- Settles O24: each premise decides the checks up to the one that fails. -/
theorem curveErrorsInOrder : Obligations.CurveErrorsInOrder := by
  intro s
  refine ⟨fun hinf h => ?_, fun hinf h => ?_, fun hdiv => ?_, exec_epmul_of_none, fun hg => ?_, fun hed => ?_⟩
  · have hfail := check_fails (not_pointLegal hinf h) .illegalOperand s
    exact ⟨hfail _, hfail _⟩
  · exact exec_epadd_of_illegalQ (not_pointLegal hinf h)
  · exact exec_epadd_of_none (pointAdd_of_zeroDivisor hdiv)
  · exact (if_pos hg).trans (raise_eq_failState .noInverse s)
  · have hrange : ¬ inScalarRange s.cfg.curve s.ec.ed = true := by
      rw [inScalarRange_iff]
      omega
    exact check_fails hrange .illegalOperand s _

end Sys2Proof.Machine

/-! ## Proofs: the control commands (spec/44_control.md R190, R191) -/

namespace Sys2Proof.Machine

/-- Settles O30: `NOP` is the bare success, which writes the completion bits alone. -/
theorem nopCompletes : Obligations.NopCompletes := fun s => (succeed_eq_next s _).2 rfl

/-- R191, R220: the state in which `ZEROIZE` ends. -/
def afterZeroize (s : State) : State := { zeroized s with status := (zeroized s).status.completed }

theorem exec_zeroize (s : State) : exec .zeroize s = .next (afterZeroize s) := rfl

/-- R191, R37: after `ZEROIZE` every register but the four it spares reads as after a reset. -/
theorem readReg_afterZeroize {r : Reg} (h : r ∉ [Reg.id, Reg.cmd, Reg.status, Reg.ctrl]) (i : Nat) (s : State) :
    readReg r i (afterZeroize s) = 0 := by
  have hid : r ≠ .id := fun hr => h (by simp [hr])
  calc readReg r i (afterZeroize s)
    _ = readReg r i (resetFrom s) := by
      cases r with
      | id | cmd | status | ctrl => exact absurd h (by decide)
      | _ => rfl
    _ = 0 := by rw [readReg_resetFrom, if_neg hid]

/-- Settles O31: the reads are those of a reset CORE, and the cleared `SKV` and `KEYV` fail the checks of the cipher commands. -/
theorem zeroizeCompletes : Obligations.ZeroizeCompletes := by
  intro s
  refine ⟨_, exec_zeroize s, exec_hostSideKept (exec_zeroize s), rfl, rfl, fun sel idx r hloc hr => ?_,
    fun off hoff => ?_, fun e => ?_⟩
  · have hread := hostRead_good (s := afterZeroize s) hloc (.inl rfl)
    exact (congrArg State.rdata hread).trans (readReg_afterZeroize hr ..)
  · obtain ⟨-, -, -, -, hnoSchedule⟩ := cipherErrorsInOrder (afterZeroize s) true off
    exact hnoSchedule hoff rfl
  · obtain ⟨-, hnoKey, -⟩ := cipherErrorsInOrder (afterZeroize s) e 16
    exact hnoKey rfl rfl

end Sys2Proof.Machine

/-! ## Proofs: the host's passphrase fold and window padding (spec/45_host_sequences.md R201, R207 to R209) -/

namespace Sys2Proof.Machine

theorem foldFrom_length (len i : Nat) (bs out : List Byte) : (foldFrom len i bs out).length = out.length := by
  induction bs generalizing i out with
  | nil => rfl
  | cons b bs ih => rw [foldFrom, ih, List.length_set]

/-- R201: XORing a byte onto position `k` changes that position alone. -/
theorem getD_set_xor {out : List Byte} {r : Nat} (h : r < out.length) (k : Nat) (b : Byte) :
    (out.set k (out.getD k 0 ^^^ b)).getD r 0 = if k = r then out.getD r 0 ^^^ b else out.getD r 0 := by
  split
  case isTrue hk =>
    subst hk
    simp [h]
  case isFalse hk => simp [hk]

/-- R201: from index `i` on, position `r` takes on the bytes whose index is `r` modulo the length, in their order. -/
theorem foldFrom_getD {len r : Nat} (i : Nat) (bs : List Byte) {out : List Byte} (h : r < out.length) :
    (foldFrom len i bs out).getD r 0 =
      (((List.range bs.length).filter fun j => (i + j) % len = r).map fun j => bs.getD j 0).foldl (· ^^^ ·) (out.getD r 0) := by
  induction bs generalizing i out with
  | nil => rfl
  | cons b bs ih =>
    have hshift : (fun j => decide ((i + j) % len = r)) ∘ Nat.succ = fun j => decide ((i + 1 + j) % len = r) := by
      funext j
      simp [Nat.add_right_comm i j 1, ← Nat.add_assoc]
    rw [foldFrom, ih _ (by rwa [List.length_set]), getD_set_xor h, List.length_cons, List.range_succ_eq_map,
      List.filter_cons, List.filter_map, hshift]
    by_cases hi : i % len = r <;> simp [hi, Function.comp_def]

/-- Settles O59: the fold runs from index 0 over `len` zero bytes. -/
theorem foldXorsByResidue : Obligations.FoldXorsByResidue := by
  intro pass len _
  have hlen : (fold pass len).length = len := by rw [fold, foldFrom_length, List.length_replicate]
  refine ⟨hlen, fun r hr => ?_⟩
  rw [fold, foldFrom_getD 0 pass (by rwa [List.length_replicate])]
  simp [hr]

theorem padWindow_length (win : List Byte) : (padWindow win).length = win.length + (8 - win.length % 8) % 8 := by
  rw [padWindow, List.length_append, List.length_replicate]

/-- R208: stripping does not depend on how many zero bytes stand at the end. -/
theorem stripZeros_append_zeros (bytes : List Byte) (n : Nat) :
    stripZeros (bytes ++ List.replicate n 0) = stripZeros bytes := by
  rw [stripZeros, List.reverse_append, List.reverse_replicate, List.dropWhile_append_of_pos (by simp), stripZeros]

/-- R209: bytes that do not end in a zero byte are left as they are. -/
theorem stripZeros_eq_self {bytes : List Byte} (h : bytes.getLast? ≠ some 0) : stripZeros bytes = bytes := by
  refine List.rdropWhile_eq_self_iff.2 fun hne hzero => h ?_
  rw [List.getLast?_eq_some_getLast hne, beq_iff_eq.1 hzero]

/-- Settles O60: at most seven zero bytes are appended, and the strip undoes them whatever their number. -/
theorem stripUndoesPadding : Obligations.StripUndoesPadding := by
  intro win
  have hlen := padWindow_length win
  refine ⟨by omega, by omega, ⟨_, rfl, fun _ => List.eq_of_mem_replicate⟩, fun hlast => ?_⟩
  exact (stripZeros_append_zeros win _).trans (stripZeros_eq_self hlast)

end Sys2Proof.Machine

/-! ## Proofs: completion, errors and the interrupt (spec/60_exceptions.md R220 to R229) -/

namespace Sys2Proof.Machine

/-! ### The idle CORE -/

/-- R229, R253: the turn of an idle CORE holds its state. -/
theorem coreTurn_idle {s : State} (hidle : s.status.busy = false) : coreTurn s = .next s :=
  if_neg (Bool.eq_false_iff.1 hidle)

/-- Settles O7: both turns are the idle CORE's. -/
theorem idleCoreHoldsState : Obligations.IdleCoreHoldsState := by
  intro s rest hidle
  refine ⟨fun hagenda => ?_, fun hagenda => ?_⟩
  · rw [step_of_agenda_nil hagenda, coreTurn_idle hidle]
  · rw [step_of_agenda_cons hagenda]
    exact coreTurn_idle (s := { s with agenda := rest }) hidle

/-! ### The two endings of a command -/

/-- R223: the commands without an operand check end in a success. -/
theorem exec_eq_succeed_of_mem {i : Instr} (h : i ∈ [Instr.nop, .zeroize, .eldg, .ekeygen, .everify]) (s : State) :
    ∃ u, exec i s = succeed u := by
  simp only [List.mem_cons, List.not_mem_nil, or_false] at h
  obtain rfl | rfl | rfl | rfl | rfl := h
  all_goals exact ⟨_, rfl⟩

/-- Settles O21: a success writes the completion bits, whatever they were. -/
theorem commandsThatNeverFail : Obligations.CommandsThatNeverFail := by
  intro i s hi
  obtain ⟨u, hu⟩ := exec_eq_succeed_of_mem hi s
  exact ⟨_, hu, u.status.completed_err, u.status.completed_errcode, u.status.completed_done⟩

/-- Settles O19: the writes before a successful completion keep `SERR`. -/
theorem completionIsPrecise : Obligations.CompletionIsPrecise := by
  intro i s t h
  obtain ⟨e, rfl⟩ | ⟨u, ⟨-, hserr, -⟩, rfl⟩ := exec_endsIn i s t h
  · exact .inr ⟨e, rfl⟩
  · exact .inl ⟨rfl, rfl, rfl, rfl, hserr⟩

/-- R220: both endings set `DONE`. -/
theorem exec_done {i : Instr} {s t : State} (h : exec i s = .next t) : t.status.done = true := by
  obtain ⟨-, -, -, hdone, -⟩ | ⟨e, rfl⟩ := completionIsPrecise i s t h
  · exact hdone
  · rfl

/-- Settles O16: `irq` is `IE` where `DONE` is set, and low where an issue or the host has cleared `DONE`. -/
theorem interruptFollowsDone : Obligations.InterruptFollowsDone := by
  refine ⟨fun i s t h => ?completed, fun s w => ?issued, fun s hidle => ?acknowledged⟩
  case completed =>
    obtain ⟨-, -, -, hie, -⟩ := exec_hostSideKept h
    rw [irq, exec_done h, Bool.and_true, hie]
  case issued => exact Bool.and_false s.ie
  case acknowledged =>
    have hwrite : hostWrite 0x02 0 0x00000002 s = { s with status := s.status.writeOneClear 0x00000002 } :=
      hostWrite_status hidle 0x00000002
    have hdone : (s.status.writeOneClear 0x00000002).done = false := Bool.and_false s.status.done
    rw [hwrite, irq, hdone, Bool.and_false]

/-! ### Every command ends (R257, R258) -/

/-- R258: the outcome is a next state, and no stop. -/
def ReachesNext (r : Result) : Prop := ∃ t, r = .next t

theorem ReachesNext.raise (e : CmdError) (s : State) : ReachesNext (raise e s) := ⟨_, rfl⟩

theorem ReachesNext.succeed (u : State) : ReachesNext (succeed u) := ⟨_, rfl⟩

/-- R223: an operand check before the rest of a command. -/
theorem ReachesNext.check {c : Prop} [Decidable c] {e : CmdError} {s : State} {r : Result} (h : ReachesNext r) :
    ReachesNext (if c then Machine.raise e s else r) := by
  split
  · exact .raise e s
  · exact h

/-- R258: every command but `ESIGN` ends in a next state, an error or a success. -/
theorem exec_reachesNext {i : Instr} (hi : i ≠ .esign) (s : State) : ReachesNext (exec i s) := by
  cases i with
  | nop | zeroize | eldg | ekeygen | everify => exact .succeed _
  | csinv | kgen _ | esinv => exact .check (.succeed _)
  | csched _ _ | cblock _ | kpub | kminv | kenc _ => exact .check (.check (.succeed _))
  | kdec _ => exact .check (.check (.check (.check (.succeed _))))
  | epadd =>
    refine .check (.check ?_)
    split
    · exact .raise _ s
    · exact .succeed _
  | epmul =>
    refine .check ?_
    split
    · exact .raise _ s
    · exact .succeed _
  | esign => exact absurd rfl hi

/-- R172, R257: `ESIGN` stops only where its resampling loop has no acceptable value. -/
theorem exec_esign_reachesNext_or_fault (s : State) : ReachesNext (exec .esign s) ∨
    (inScalarRange s.cfg.curve s.ec.ed = true ∧ exec .esign s = .fault .resampleForever ∧
      drawUntil 1 (s.cfg.curve.n - 1) (signWith s) s.src = none) := by
  change ReachesNext (execEsign s) ∨ (_ ∧ execEsign s = _ ∧ _)
  rw [execEsign]
  by_cases hrange : inScalarRange s.cfg.curve s.ec.ed = true
  · rw [check_passes hrange]
    cases hd : drawUntil 1 (s.cfg.curve.n - 1) (signWith s) s.src with
    | none => exact .inr ⟨hrange, rfl, rfl⟩
    | some result => exact .inl (.succeed _)
  · exact .inl ⟨_, check_fails hrange ..⟩

/-- Settles O20: a resampling loop without a result has tried every value of its range. -/
theorem everyCommandCompletes : Obligations.EveryCommandCompletes := by
  intro i s
  by_cases hi : i = .esign
  · subst hi
    refine (exec_esign_reachesNext_or_fault s).imp_right ?_
    rintro ⟨hrange, hfault, hnone⟩
    exact ⟨rfl, hrange, hfault, drawUntil_none _ _ _ _ hnone⟩
  · exact .inl (exec_reachesNext hi s)

end Sys2Proof.Machine

/-! ## Proofs: the first command after reset (spec/70_reset_and_hazards.md R251) -/

namespace Sys2Proof.Machine

/-- R250, R251: the reset state of a configuration. -/
def resetState (cfg : Config) : State := { State.reset with cfg := cfg }

/-! ### The pair (0, 0), which the point operands hold after reset -/

/-- R163, R251: the doubling branch finds `y1 + y2 = 0`. -/
theorem pointAdd_origin_origin (c : Curve) : pointAdd c (.affine 0 0) (.affine 0 0) = some .infinity :=
  pointAdd_opposite ⟨rfl, Nat.zero_mod c.p⟩

theorem origin_reduced {c : Curve} (h : c.wf = true) : (Point.affine 0 0).Reduced c :=
  have hp : 0 < c.p := Nat.zero_lt_of_lt (Curve.wf_field h).1
  ⟨hp, hp⟩

/-- The multiples of (0, 0): its double is infinity. -/
def OriginMultiple (p : Point) : Prop := p = .infinity ∨ p = .affine 0 0

theorem OriginMultiple.pointAdd (c : Curve) (p q : Point) (hp : OriginMultiple p) (hq : OriginMultiple q) :
    ∃ r, Machine.pointAdd c p q = some r ∧ OriginMultiple r := by
  obtain rfl | rfl := hp
  · exact ⟨q, rfl, hq⟩
  · obtain rfl | rfl := hq
    · exact ⟨.affine 0 0, rfl, .inr rfl⟩
    · exact ⟨.infinity, pointAdd_origin_origin c, .inl rfl⟩

/-- R164, R251: doubling (0, 0) never divides by zero, so the multiple by 0 is defined on every curve. -/
theorem scalarMul_zero_origin (c : Curve) : scalarMul c 0 (.affine 0 0) = some .infinity := by
  obtain ⟨t, ht, -⟩ := scalarLoop_closed (OriginMultiple.pointAdd c) Config.ecw 0 .infinity (.affine 0 0)
    (.inl rfl) (.inr rfl)
  obtain rfl : t = .infinity := scalarMul_zero ht
  exact ht

/-! ### The commands of each unit -/

section
variable (cfg : Config)

/-- R251: `EPADD` gives infinity. -/
theorem exec_epadd_resetState (hwf : cfg.wf = true) :
    ∃ t, exec .epadd (resetState cfg) = .next t ∧ t.status.err = false ∧ t.ec.rinf = true :=
  have h0 := origin_reduced (Config.wf_curve hwf)
  ⟨_, exec_epadd (s := resetState cfg) h0 h0 (pointAdd_origin_origin cfg.curve), rfl, rfl⟩

/-- R251: `EPMUL` gives infinity. -/
theorem exec_epmul_resetState (hwf : cfg.wf = true) :
    ∃ t, exec .epmul (resetState cfg) = .next t ∧ t.status.err = false ∧ t.ec.rinf = true :=
  have h0 := origin_reduced (Config.wf_curve hwf)
  ⟨_, exec_epmul (s := resetState cfg) h0 (scalarMul_zero_origin cfg.curve), rfl, rfl⟩

/-- R251: `ER = 0` is out of range, so the signature is not valid. -/
theorem exec_everify_resetState :
    ∃ t, exec .everify (resetState cfg) = .next t ∧ t.status.vok = false := by
  refine ⟨_, exec_everify (resetState cfg), Bool.eq_false_iff.2 fun hvok => ?_⟩
  obtain ⟨⟨⟨her, -⟩, -⟩, -⟩ := (verifyAnswer_iff (resetState cfg).cfg.curve (resetState cfg).ec).1 hvok
  exact lt_irrefl 0 her

/-- R251: with neither a key nor a schedule the cipher commands fail. -/
theorem exec_cipher_resetState :
    exec (.csched true 16) (resetState cfg) = .next (failState (resetState cfg) 0x03) ∧
    exec .csinv (resetState cfg) = .next (failState (resetState cfg) 0x04) ∧
    ∀ off, off + 8 ≤ cfg.dbufBytes →
      exec (.cblock off) (resetState cfg) = .next (failState (resetState cfg) 0x04) := by
  obtain ⟨-, hcsched, hcsinv, -, -⟩ := cipherErrorsInOrder (resetState cfg) true 16
  refine ⟨hcsched rfl rfl, hcsinv rfl, fun off hoff => ?_⟩
  obtain ⟨-, -, -, -, hcblock⟩ := cipherErrorsInOrder (resetState cfg) true off
  exact hcblock hoff rfl

/-- R251: `KLEN = 0` is no legal length, and `KA = 0` no multiplier, so the knapsack commands but `KGEN` fail. -/
theorem exec_knapsack_resetState :
    exec .kpub (resetState cfg) = .next (failState (resetState cfg) 0x07) ∧
    exec (.kenc 0) (resetState cfg) = .next (failState (resetState cfg) 0x07) ∧
    exec (.kdec 0) (resetState cfg) = .next (failState (resetState cfg) 0x07) ∧
    exec .kminv (resetState cfg) = .next (failState (resetState cfg) 0x07) ∧
    ∀ len, len ≠ 0 →
      exec (.kenc len) (resetState cfg) = .next (failState (resetState cfg) 0x06) ∧
      exec (.kdec len) (resetState cfg) = .next (failState (resetState cfg) 0x06) := by
  have herrors := fun imm => knapsackErrorsInOrder (resetState cfg) imm _ _ Iff.rfl Iff.rfl
  have hklen : (0 : Nat) ∉ [8, 16, 24, 32, 40, 48, 56, 64, 72, 80, 88, 96, 104, 112, 120, 128] := by decide
  have hka : ¬ 2 ≤ 0 := by decide
  obtain ⟨-, hkpub, hkminv, -, -, hzero, -, -⟩ := herrors 0
  obtain ⟨hkenc, hkdec⟩ := hzero rfl hklen
  refine ⟨hkpub fun h => hklen h.1, hkenc, hkdec, hkminv fun h => hka h.1, fun len hlen => ?_⟩
  obtain ⟨-, -, -, -, hmismatch, -, -, -⟩ := herrors len
  exact hmismatch (Nat.mul_ne_zero (by decide) hlen)

/-- R251: `EK = 0` has no inverse modulo `n`, and `ED = 0` is no private scalar. -/
theorem exec_curve_resetState (hwf : cfg.wf = true) :
    exec .esinv (resetState cfg) = .next (failState (resetState cfg) 0x08) ∧
    exec .esign (resetState cfg) = .next (failState (resetState cfg) 0x07) := by
  obtain ⟨hn, -⟩ := Curve.wf_order (Config.wf_curve hwf)
  obtain ⟨-, -, -, -, hesinv, hesign⟩ := curveErrorsInOrder (resetState cfg)
  refine ⟨hesinv ?_, hesign (.inl rfl)⟩
  change Nat.gcd (0 % cfg.curve.n) cfg.curve.n ≠ 1
  rw [Nat.zero_mod, Nat.gcd_zero_left]
  exact hn.ne'

end

/-- Settles O18: the reset state's zero operands and clear flags decide the operand checks of every command. -/
theorem firstCommandAfterReset : Obligations.FirstCommandAfterReset := by
  intro cfg hwf s hs
  obtain rfl : s = resetState cfg := hs
  obtain ⟨hcsched, hcsinv, hcblock⟩ := exec_cipher_resetState cfg
  obtain ⟨hkpub, hkenc, hkdec, hkminv, hmismatch⟩ := exec_knapsack_resetState cfg
  obtain ⟨hesinv, hesign⟩ := exec_curve_resetState cfg hwf
  obtain ⟨t, hadd, haddErr, haddInf⟩ := exec_epadd_resetState cfg hwf
  obtain ⟨u, hmul, hmulErr, hmulInf⟩ := exec_epmul_resetState cfg hwf
  refine ⟨fun i hi => ?succeeds, fun n hn => ?kgen, exec_everify_resetState cfg, ?infinity, hcsched, hcsinv, hcblock,
    ?illegalOperand, hmismatch, hesinv⟩
  case succeeds =>
    obtain hi | hi := List.mem_append (s := [Instr.nop, .zeroize, .eldg, .ekeygen, .everify]).1 hi
    · obtain ⟨v, hv, herr, -⟩ := commandsThatNeverFail i (resetState cfg) hi
      exact ⟨v, hv, herr⟩
    · obtain rfl | rfl := List.mem_pair.1 hi
      · exact ⟨t, hadd, haddErr⟩
      · exact ⟨u, hmul, hmulErr⟩
  case kgen => exact ⟨_, exec_kgen ((legalLength_iff_mem n).2 hn), rfl⟩
  case infinity =>
    simp only [List.mem_cons, List.not_mem_nil, or_false, forall_eq_or_imp, forall_eq]
    exact ⟨⟨t, hadd, haddInf⟩, ⟨u, hmul, hmulInf⟩⟩
  case illegalOperand =>
    simp only [List.mem_cons, List.not_mem_nil, or_false, forall_eq_or_imp, forall_eq]
    exact ⟨hkpub, hkenc, hkdec, hkminv, hesign⟩

end Sys2Proof.Machine
